-- ==== Sys2Proof/Word.lean ====
section
/-!
DEFINITION. The word types of the block.

Every register of the device window and every word of a mailbox message is 32 bits wide (R38, R100);
byte strings (addresses, keys) are sequences of 8-bit bytes (section 6 of 00_scope.md).
-/

namespace Sys2Proof

/-- A register value or a message word: 32 unsigned bits, bit 0 least significant (R38, R100). -/
abbrev Word := BitVec 32

/-- One byte of an address or of the RSS key. -/
abbrev Byte := BitVec 8

/-- The all-ones word `0xFFFFFFFF` that every read returns once the device is gone (R50, R61). -/
abbrev allOnes : Word := 0xFFFFFFFF#32

end Sys2Proof
end

