-- ==== Sys2Proof/Config.lean ====
section
/-!
DEFINITION. What an implementation fixes, and the free values.

The spec names every constant of the block as a parameter (R8 to R11, R68, and the list of open
parameters in 92_eei_decisions.md) and gives each a default: "the value a model uses when it is not given
another". They are the fields of the record `Params`, which the machine's state carries and no step
writes, so that every statement holds for every value of them; `defaults` are the spec's defaults, and
`Params.Ok` are the constraints the spec puts on a choice of values, "the only facts about these values a
proof may use" (R9). Only the numbers that are the document's own are constants.
-/

namespace Sys2Proof.Config

/-! ## The document's own numbers (R8) -/

/-- `MC_MAX`: most hash vectors in one multicast update; the source's own number (R8). -/
def mcMax : Nat := 30
/-- `PERM_MSG_LEN`: words of the reset reply; the source's own number (R8). -/
def permMsgLen : Nat := 4
/-- `RSS_KEY_BYTES`: bytes of the RSS key; the source's own number (R8). -/
def rssKeyBytes : Nat := 40
/-- `RSS_KEY_WORDS`: payload words of the key reply (R8). -/
def rssKeyWords : Nat := 10
/-- `RETA_ENTRIES` for the 82599 class (R8, R26). -/
def retaEntries : Nat := 128
/-- `RETA_WORDS`: payload words of the indirection-table reply (R8). -/
def retaWords : Nat := 8
/-- Entries in one payload word of the indirection-table reply (R117). -/
def retaPerWord : Nat := 16

/-! ## Protocol constants (R9) -/

/-- The protocol constants: opcodes, the fields of word 0, and the flag bits. A flag is "a single bit
inside `FLAG_MASK`" (R9), so it is held as its bit position. -/
structure Codes where
  /-- `OP_RESET` -/
  opReset : Word
  /-- `OP_SET_MAC_ADDR` -/
  opSetMacAddr : Word
  /-- `OP_SET_MULTICAST` -/
  opSetMulticast : Word
  /-- `OP_SET_VLAN` -/
  opSetVlan : Word
  /-- `OP_SET_MACVLAN` -/
  opSetMacvlan : Word
  /-- `OP_API_NEGOTIATE` -/
  opApiNegotiate : Word
  /-- `OP_GET_RETA` -/
  opGetReta : Word
  /-- `OP_GET_RSS_KEY` -/
  opGetRssKey : Word
  /-- `OPCODE_MASK` -/
  opcodeMask : Word
  /-- `INFO_SHIFT` -/
  infoShift : Nat
  /-- `INFO_WIDTH` -/
  infoWidth : Nat
  /-- `FLAG_MASK` -/
  flagMask : Word
  /-- the bit `FLAG_ACK` -/
  ackBit : Nat
  /-- the bit `FLAG_NACK` -/
  nackBit : Nat
  /-- the bit `FLAG_CTS` -/
  ctsBit : Nat
  /-- the bit `FLAG_SUCCESS`, which may be that of `FLAG_ACK` -/
  successBit : Nat
  /-- the bit `FLAG_FAILURE`, which may be that of `FLAG_NACK` -/
  failureBit : Nat
deriving DecidableEq, Repr

/-- The eight opcodes of R105. -/
def Codes.opcodes (c : Codes) : List Word :=
  [c.opReset, c.opSetMacAddr, c.opSetMulticast, c.opSetVlan, c.opSetMacvlan, c.opApiNegotiate,
    c.opGetReta, c.opGetRssKey]

/-- `FLAG_ACK` -/
def Codes.flagAck (c : Codes) : Word := 1#32 <<< c.ackBit
/-- `FLAG_NACK` -/
def Codes.flagNack (c : Codes) : Word := 1#32 <<< c.nackBit
/-- `FLAG_CTS` -/
def Codes.flagCts (c : Codes) : Word := 1#32 <<< c.ctsBit
/-- `FLAG_SUCCESS` -/
def Codes.flagSuccess (c : Codes) : Word := 1#32 <<< c.successBit
/-- `FLAG_FAILURE` -/
def Codes.flagFailure (c : Codes) : Word := 1#32 <<< c.failureBit

/-- An info field of `INFO_WIDTH` ones in the lowest bits. -/
def Codes.infoOnes (c : Codes) : Word := BitVec.ofNat 32 (2 ^ c.infoWidth - 1)
/-- `INFO_MASK = ((1 << INFO_WIDTH) - 1) << INFO_SHIFT` (R9). -/
def Codes.infoMask (c : Codes) : Word := c.infoOnes <<< c.infoShift

/-- The constraints of R9 on the protocol constants. -/
structure Codes.Ok (c : Codes) : Prop where
  /-- (i) the opcodes are pairwise distinct -/
  opcodesNodup : c.opcodes.Nodup
  /-- (i) each opcode fits in `OPCODE_MASK` -/
  opcodesFit : ∀ op ∈ c.opcodes, op &&& c.opcodeMask = op
  /-- (ii) the opcode field is lowest: it lies below the info field -/
  opcodeLow : c.opcodeMask.toNat < 2 ^ c.infoShift
  /-- (ii) the info field is in the middle of the word -/
  infoFits : c.infoShift + c.infoWidth ≤ 32
  /-- (ii) the flag field is highest: it lies above the info field -/
  flagsHigh : c.flagMask.toNat % 2 ^ (c.infoShift + c.infoWidth) = 0
  /-- (iii) every flag is inside `FLAG_MASK` -/
  flagsInside : ∀ b ∈ [c.ackBit, c.nackBit, c.ctsBit, c.successBit, c.failureBit],
    c.flagMask.getLsbD b = true
  /-- (iii) `FLAG_ACK`, `FLAG_NACK` and `FLAG_CTS` are pairwise distinct -/
  ackNackCts : [c.ackBit, c.nackBit, c.ctsBit].Nodup
  /-- (iii) `FLAG_SUCCESS` and `FLAG_FAILURE` differ, and `FLAG_CTS` differs from both -/
  successFailureCts : [c.successBit, c.failureBit, c.ctsBit].Nodup
  /-- (iv) the count 30 fits in the info field -/
  infoWide : 5 ≤ c.infoWidth

/-! ## The register window (R11, R68) -/

/-- Byte offsets, bit positions and speed codes of the register window. DESIGN CHOICE: a window address is a
natural number without a width, so that `OFF_MBMEM + 4*i` never wraps; the source states no width (R60,
assumption 43). -/
structure Window where
  /-- `OFF_CTRL` -/
  offCtrl : Nat
  /-- `OFF_STATUS` -/
  offStatus : Nat
  /-- `OFF_LINKS` -/
  offLinks : Nat
  /-- `OFF_INT_CAUSE`: a register no rule reads or writes (R45, R47) -/
  offIntCause : Nat
  /-- `OFF_INT_MASK` -/
  offIntMask : Nat
  /-- `OFF_MBMEM`: word `i` of the mailbox region stands at `OFF_MBMEM + 4*i` (R66, R68) -/
  offMbmem : Nat
  /-- `OFF_MBX` -/
  offMbx : Nat
  /-- `OFF_RXDCTL(q)`, for each queue -/
  offRxdctl : List Nat
  /-- `OFF_TXDCTL(q)`, for each queue -/
  offTxdctl : List Nat
  /-- `CTRL_RST` -/
  ctrlRst : Nat
  /-- `DCTL_ENABLE` -/
  dctlEnable : Nat
  /-- `MBX_REQ` -/
  mbxReq : Nat
  /-- `MBX_ACK` -/
  mbxAck : Nat
  /-- `MBX_VFU` -/
  mbxVfu : Nat
  /-- `MBX_PFU` -/
  mbxPfu : Nat
  /-- `MBX_PFSTS` -/
  mbxPfsts : Nat
  /-- `MBX_RSTIP` -/
  mbxRstip : Nat
  /-- `LINKS_UP` -/
  linksUp : Nat
  /-- the low bit of the two-bit field `LINKS_SPEED` -/
  linksSpeedLo : Nat
  /-- `LINKS_SPEED_10G` -/
  linksSpeed10G : BitVec 2
  /-- `LINKS_SPEED_1G` -/
  linksSpeed1G : BitVec 2
  /-- `LINKS_SPEED_100M` -/
  linksSpeed100M : BitVec 2
deriving DecidableEq, Repr

/-- The bit positions of the fields of `MBX` (R43). -/
def Window.mbxBits (w : Window) : List Nat :=
  [w.mbxReq, w.mbxAck, w.mbxVfu, w.mbxPfu, w.mbxPfsts, w.mbxRstip]

/-- The speed codes (R241). -/
def Window.speedCodes (w : Window) : List (BitVec 2) :=
  [w.linksSpeed10G, w.linksSpeed1G, w.linksSpeed100M]

/-- The offsets of every register of a window with `words` mailbox words: the `words` words of `MBMEM`
are contiguous (R11). -/
def Window.offsets (w : Window) (words : Nat) : List Nat :=
  [w.offCtrl, w.offStatus, w.offLinks, w.offIntCause, w.offIntMask, w.offMbx]
    ++ (List.range words).map (fun i => w.offMbmem + 4 * i) ++ w.offRxdctl ++ w.offTxdctl

/-- The constraints on the register window of a machine with `words` mailbox words and `queues` queue
pairs. That the fields of one register do not overlap and lie inside it is not said by R11 but follows from
their being fields (assumption 41). -/
structure Window.Ok (w : Window) (words queues : Nat) : Prop where
  /-- every queue has its two registers -/
  rxdctlLength : w.offRxdctl.length = queues
  /-- every queue has its two registers -/
  txdctlLength : w.offTxdctl.length = queues
  /-- "the offsets are pairwise distinct ..." (R11) -/
  offsetsNodup : (w.offsets words).Nodup
  /-- "... multiples of 4" (R11) -/
  offsetsAligned : ∀ o ∈ w.offsets words, o % 4 = 0
  /-- every field lies inside its register -/
  bitsInside : ∀ b ∈ [w.ctrlRst, w.dctlEnable, w.linksUp] ++ w.mbxBits, b < 32
  /-- the fields of `MBX` do not overlap -/
  mbxBitsNodup : w.mbxBits.Nodup
  /-- the two bits of `LINKS.SPEED` lie inside the register -/
  speedInside : w.linksSpeedLo + 1 < 32
  /-- `LINKS.UP` is no bit of `LINKS.SPEED` -/
  upOutsideSpeed : w.linksUp ≠ w.linksSpeedLo ∧ w.linksUp ≠ w.linksSpeedLo + 1
  /-- the three codes are pairwise distinct (R241) -/
  speedCodesNodup : w.speedCodes.Nodup

/-! ## The parameters a machine carries -/

/-- `GEN`, the device generation (R34). -/
inductive Gen where
  | g82599
  | gx550
deriving DecidableEq, Repr

/-- The parameters a machine is built with; no step writes them (R34, R51). The delays are lengths in
microseconds, kept for documentation: they have no effect in the untimed model (R78). -/
structure Params where
  /-- `GEN` (R34) -/
  gen : Gen
  /-- `MBX_SIZE`: words in the shared mailbox region and in `MSG` (R8, R36, R44) -/
  mbxSize : Nat
  /-- `NUM_QUEUES`: queue pairs (R8, R46) -/
  numQueues : Nat
  /-- `RST_POLL_MAX`: samples of the reset indicator RESET takes (R8) -/
  rstPollMax : Nat
  /-- `MBX_INIT_TIMEOUT`: the budget RESET arms the timeout with (R8, R29) -/
  mbxInitTimeout : Word
  /-- `UNARMED_BUDGET`: the budget of a poll while the timeout is not armed; `none` is `INF` (R8, R140) -/
  unarmedBudget : Option Nat
  /-- `MBX_POLL_DELAY` (R8) -/
  mbxPollDelay : Nat
  /-- `RST_POLL_DELAY` (R8) -/
  rstPollDelay : Nat
  /-- `RESET_SETTLE` (R8) -/
  resetSettle : Nat
  /-- `RESET_REPLY_SETTLE` (R8) -/
  resetReplySettle : Nat
  /-- `API_BASE` (R10) -/
  apiBase : Word
  /-- `API_RSS_SET` (R10) -/
  apiRssSet : List Word
  /-- the protocol constants (R9) -/
  codes : Codes
  /-- the register window (R11, R68) -/
  window : Window
deriving DecidableEq, Repr

/-- The constraints the spec puts on the parameters, which the machine's invariant carries. That
`MBX_INIT_TIMEOUT` is not 0 is the model's choice: R29 and R149 take arming as writing a non-zero value,
and no rule gives the parameter's range (assumption 40). -/
structure Params.Ok (p : Params) : Prop where
  /-- R9 -/
  codes : p.codes.Ok
  /-- R11 -/
  window : p.window.Ok p.mbxSize p.numQueues
  /-- "capacity ≥ largest payload used (... multicast update: up to 16 words)" (R8) -/
  mbxSize : 16 ≤ p.mbxSize
  /-- "`API_BASE` is not a member of `API_RSS_SET`" (R10) -/
  apiBase : p.apiBase ∉ p.apiRssSet
  /-- arming writes a non-zero count (assumption 40) -/
  mbxInitTimeout : p.mbxInitTimeout ≠ 0#32

/-- The delays the block names (R8, R78). -/
inductive DelayName where
  | mbxPoll
  | rstPoll
  | resetSettle
  | resetReplySettle
deriving DecidableEq, Repr

/-- The length of each delay in microseconds (R8), kept for documentation only (R78). -/
def Params.delayMicros (p : Params) : DelayName → Nat
  | .mbxPoll => p.mbxPollDelay
  | .rstPoll => p.rstPollDelay
  | .resetSettle => p.resetSettle
  | .resetReplySettle => p.resetReplySettle

/-! ## The spec's defaults -/

/-- The default protocol constants (the table of R9). -/
def defaultCodes : Codes :=
  { opReset := 0x01#32
    opSetMacAddr := 0x02#32
    opSetMulticast := 0x03#32
    opSetVlan := 0x04#32
    opSetMacvlan := 0x06#32
    opApiNegotiate := 0x08#32
    opGetReta := 0x0a#32
    opGetRssKey := 0x0b#32
    opcodeMask := 0x0000FFFF#32
    infoShift := 16
    infoWidth := 8
    flagMask := 0xE0000000#32
    ackBit := 31
    nackBit := 30
    ctsBit := 29
    successBit := 31
    failureBit := 30 }

/-- The default register window of R68 for eight queue pairs. -/
def defaultWindow : Window :=
  { offCtrl := 0x00000
    offStatus := 0x00008
    offLinks := 0x00010
    offIntCause := 0x00100
    offIntMask := 0x00108
    offMbmem := 0x00200
    offMbx := 0x002FC
    offRxdctl := (List.range 8).map fun q => 0x01028 + 0x40 * q
    offTxdctl := (List.range 8).map fun q => 0x02028 + 0x40 * q
    ctrlRst := 26
    dctlEnable := 25
    mbxReq := 0
    mbxAck := 1
    mbxVfu := 2
    mbxPfu := 3
    mbxPfsts := 4
    mbxRstip := 6
    linksUp := 30
    linksSpeedLo := 28
    linksSpeed10G := 3#2
    linksSpeed1G := 2#2
    linksSpeed100M := 1#2 }

/-- The spec's defaults (R8 to R10, R68); `GEN` is a model argument without a default (assumption 3). -/
def defaults : Params :=
  { gen := .g82599
    mbxSize := 16
    numQueues := 8
    rstPollMax := 10
    mbxInitTimeout := 2000#32
    unarmedBudget := none
    mbxPollDelay := 1000
    rstPollDelay := 5
    resetSettle := 50000
    resetReplySettle := 10000
    apiBase := 0#32
    apiRssSet := [3#32, 4#32, 5#32, 6#32]
    codes := defaultCodes
    window := defaultWindow }

/-! ## Free values -/

/-- The free value behind every `any()` of the spec (R12): the `n`-th draw a machine makes after its
tape of scripted draws has run out. It has no body: nothing can be proved of its value. -/
opaque anyWord : Nat → Word

end Sys2Proof.Config
end

