-- ==== Sys2Proof/Syntax.lean ====
section
/-!
DEFINITION. The instructions: one constructor per row of spec/opcode_table.json.

Three groups stand in the table. The eight *requests* are the messages the block sends to the PF (R106
to R120), the fifteen *replies* the messages it reads back (R107 to R121), and the eighteen *commands*
what the Host asks of the block (R128) together with the internal EXCHANGE (R129, R146). A message has
a bit-level encoding (Decode.lean); a command has none (R128) and is taken as a value of this type.
-/

namespace Sys2Proof

/-- A MAC address: six bytes in transmission order, printed `a0:a1:a2:a3:a4:a5` (section 6 of
00_scope.md). -/
structure MacAddr where
  a0 : Byte
  a1 : Byte
  a2 : Byte
  a3 : Byte
  a4 : Byte
  a5 : Byte
deriving DecidableEq, Repr

/-- The address `00:00:00:00:00:00`. -/
def MacAddr.zero : MacAddr := ⟨0#8, 0#8, 0#8, 0#8, 0#8, 0#8⟩

/-- The handle registers READ_HANDLE can name (R20 to R33, R130). -/
inductive HandleField where
  | permAddr
  | curAddr
  | mcFilterType
  | apiVersion
  | rssKey
  | reta
  | linkUp
  | linkSpeed
  | mbxTimeout
  | adapterStopped
  | fsm
  | macValid
  | removed
deriving DecidableEq, Repr

/-- One constructor per row of the opcode table, in the table's order. A reply's `cts` is its flag bit
`FLAG_CTS`, which every decoder ignores (R104, R124). An `index` has `INFO_WIDTH` bits (R177), which is a
parameter, so it is held in a word and checked by `Instr.wellFormed`. -/
inductive Instr where
  /-- RESET.REQ (R106) -/
  | resetReq
  /-- SET_MAC.REQ (R108) -/
  | setMacReq (addr : MacAddr)
  /-- SET_VLAN.REQ (R110) -/
  | setVlanReq (vlanId : BitVec 12) (vlanOn : Bool)
  /-- SET_MULTICAST.REQ (R112); the count of the info field is the length of the list -/
  | setMulticastReq (vectors : List (BitVec 12))
  /-- SET_MACVLAN.REQ (R114) -/
  | setMacvlanReq (index : Word) (addr : MacAddr)
  /-- API_NEGOTIATE.REQ (R120) -/
  | apiNegotiateReq (version : Word)
  /-- GET_RETA.REQ (R116) -/
  | getRetaReq
  /-- GET_RSS_KEY.REQ (R118) -/
  | getRssKeyReq
  /-- RESET.ACK (R107) -/
  | resetAck (cts : Bool) (perm : MacAddr) (mcType : Word)
  /-- SET_MAC.ACK (R109) -/
  | setMacAck (cts : Bool)
  /-- SET_MAC.NACK (R109) -/
  | setMacNack (cts : Bool)
  /-- API_NEGOTIATE.ACK (R121) -/
  | apiNegotiateAck (cts : Bool) (version : Word)
  /-- API_NEGOTIATE.NACK (R121) -/
  | apiNegotiateNack (cts : Bool)
  /-- SET_MACVLAN.ACK (R115) -/
  | setMacvlanAck (cts : Bool) (index : Word)
  /-- SET_MACVLAN.NACK (R115) -/
  | setMacvlanNack (cts : Bool) (index : Word)
  /-- GET_RETA.SUCCESS (R117): eight payload words -/
  | getRetaSuccess (cts : Bool) (payload : List Word)
  /-- GET_RETA.FAILURE (R117) -/
  | getRetaFailure (cts : Bool)
  /-- GET_RSS_KEY.SUCCESS (R119): ten payload words -/
  | getRssKeySuccess (cts : Bool) (payload : List Word)
  /-- GET_RSS_KEY.FAILURE (R119) -/
  | getRssKeyFailure (cts : Bool)
  /-- SET_VLAN.ACK (R111) -/
  | setVlanAck (cts : Bool) (vlanOn : Bool)
  /-- SET_VLAN.NACK (R111) -/
  | setVlanNack (cts : Bool) (vlanOn : Bool)
  /-- SET_MULTICAST.ACK (R113) -/
  | setMulticastAck (cts : Bool) (count : BitVec 5)
  /-- SET_MULTICAST.NACK (R113) -/
  | setMulticastNack (cts : Bool) (count : BitVec 5)
  /-- STOP (R213) -/
  | stop
  /-- RESET (R214) -/
  | reset
  /-- START (R215) -/
  | start
  /-- INIT (R216) -/
  | init
  /-- SET_MAC (R173) -/
  | setMac (addr : MacAddr)
  /-- SET_VLAN (R174) -/
  | setVlan (vlanId : BitVec 12) (vlanOn : Bool)
  /-- MTA_VECTOR (R175) -/
  | mtaVector (addr : MacAddr) (filterType : Word)
  /-- UPDATE_MC (R176) -/
  | updateMc (list : List MacAddr)
  /-- SET_MACVLAN (R177) -/
  | setMacvlan (index : Word) (addr : MacAddr)
  /-- GET_RETA (R178) -/
  | getReta
  /-- GET_RSS_KEY (R179) -/
  | getRssKey
  /-- NEGOTIATE_API (R180) -/
  | negotiateApi (version : Word)
  /-- CHECK_LINK (R240) -/
  | checkLink
  /-- WRITE_POSTED (R143) -/
  | writePosted (msg : List Word) (len : Nat) (mailboxId : Nat)
  /-- READ_POSTED (R144) -/
  | readPosted (len : Nat) (mailboxId : Nat)
  /-- CHECK_FOR_RST (R145) -/
  | checkForRst (mailboxId : Nat)
  /-- READ_HANDLE (R130) -/
  | readHandle (field : HandleField)
  /-- EXCHANGE (R146), internal: the Host cannot issue it (R129) -/
  | exchange (reqLen rspLen : Nat)
deriving DecidableEq, Repr

/-- The three groups of the table: a message the block sends, a message it reads, a command. -/
inductive Group where
  | request
  | reply
  | command
deriving DecidableEq, Repr

/-- Which group a row belongs to (the "format" column of the opcode table). -/
def Instr.group : Instr → Group
  | .resetReq | .setMacReq _ | .setVlanReq _ _ | .setMulticastReq _ | .setMacvlanReq _ _
  | .apiNegotiateReq _ | .getRetaReq | .getRssKeyReq => .request
  | .resetAck _ _ _ | .setMacAck _ | .setMacNack _ | .apiNegotiateAck _ _ | .apiNegotiateNack _
  | .setMacvlanAck _ _ | .setMacvlanNack _ _ | .getRetaSuccess _ _ | .getRetaFailure _
  | .getRssKeySuccess _ _ | .getRssKeyFailure _ | .setVlanAck _ _ | .setVlanNack _ _
  | .setMulticastAck _ _ | .setMulticastNack _ _ => .reply
  | .stop | .reset | .start | .init | .setMac _ | .setVlan _ _ | .mtaVector _ _ | .updateMc _
  | .setMacvlan _ _ | .getReta | .getRssKey | .negotiateApi _ | .checkLink | .writePosted _ _ _
  | .readPosted _ _ | .checkForRst _ | .readHandle _ | .exchange _ _ => .command

end Sys2Proof
end

