-- ==== Sys2Proof/WellFormed.lean ====
section
/-!
DEFINITION. Which terms of `Instr` stand for an instruction the spec admits.

Most operands cannot leave their range because their type has the operand's width (U14). What is left
to check: the index of a MACVLAN message, whose width is the parameter `INFO_WIDTH` (R177), the lengths of
lists, the range of a transport command's `len`, its `mailbox_id` (R147), and the address of a clear-list
MACVLAN request, which the encoder writes as zeros (R114).
-/

namespace Sys2Proof

/-- `1 <= len <= MBX_SIZE` (R100, R147). -/
def lenOk (p : Config.Params) (len : Nat) : Bool := decide (1 ≤ len) && decide (len ≤ p.mbxSize)

/-- The index fits in the info field: `info < 2^INFO_WIDTH` (R102, R177). -/
def indexOk (p : Config.Params) (index : Word) : Bool := decide (index.toNat < 2 ^ p.codes.infoWidth)

/-- The instruction is one the spec admits as a term. For a command these are the operand conditions of
R147, R177 and U14, and the command's meaning refuses the others (R260). -/
def Instr.wellFormed (p : Config.Params) : Instr → Bool
  | .setMulticastReq vectors => decide (vectors.length ≤ Config.mcMax)
  | .setMacvlanReq index addr =>
    indexOk p index && (decide (index ≠ 0#32) || decide (addr = MacAddr.zero))
  | .setMacvlanAck _ index | .setMacvlanNack _ index | .setMacvlan index _ => indexOk p index
  | .getRetaSuccess _ payload => decide (payload.length = Config.retaWords)
  | .getRssKeySuccess _ payload => decide (payload.length = Config.rssKeyWords)
  | .writePosted msg len mailboxId =>
    lenOk p len && decide (msg.length = len) && decide (mailboxId = 0)
  | .readPosted len mailboxId => lenOk p len && decide (mailboxId = 0)
  | .checkForRst mailboxId => decide (mailboxId = 0)
  | .exchange reqLen rspLen => lenOk p reqLen && lenOk p rspLen
  | .resetReq | .setMacReq _ | .setVlanReq _ _ | .apiNegotiateReq _ | .getRetaReq | .getRssKeyReq
  | .resetAck _ _ _ | .setMacAck _ | .setMacNack _ | .apiNegotiateAck _ _ | .apiNegotiateNack _
  | .getRetaFailure _ | .getRssKeyFailure _ | .setVlanAck _ _ | .setVlanNack _ _
  | .setMulticastAck _ _ | .setMulticastNack _ _
  | .stop | .reset | .start | .init | .setMac _ | .setVlan _ _ | .mtaVector _ _ | .updateMc _
  | .getReta | .getRssKey | .negotiateApi _ | .checkLink | .readHandle _ => true

end Sys2Proof
end

