-- ==== Sys2Proof/Machine/Operands.lean ====
section
/-!
DEFINITION. Operand forms: bit fields, the word-0 constructor, the packing helpers and the hash.

All arithmetic of the block is unsigned bitwise and shift arithmetic on words (R171); nothing is sign
extended anywhere.
-/

namespace Sys2Proof.Machine

/-! ## Bits of a word -/

/-- The word whose only set bit is bit `k`. -/
def bitMask (k : Nat) : Word := 1#32 <<< k

/-- Bit `k` of a word. -/
def hasBit (w : Word) (k : Nat) : Bool := w.getLsbD k

/-- A one-bit operand as a bit vector of any width. -/
def ofBit {n : Nat} (b : Bool) : BitVec n := if b then 1#n else 0#n

/-! ## Word 0 of a message (R101, R102) -/

/-- The opcode field of a word 0 (R101). -/
def opcodeField (c : Config.Codes) (w : Word) : Word := w &&& c.opcodeMask

/-- The info field of a word 0: `(w & INFO_MASK) >> INFO_SHIFT` (R101). -/
def infoField (c : Config.Codes) (w : Word) : Word := (w &&& c.infoMask) >>> c.infoShift

/-- The word-0 constructor of every request: `mk0(op, info) = op | (zext_32(info) << INFO_SHIFT)`,
defined for `info < 2^INFO_WIDTH` (R102). -/
def mk0 (c : Config.Codes) (op info : Word) : Word := op ||| (info <<< c.infoShift)

/-- Word 0 of a reply: the request's word 0, one verdict flag, and `FLAG_CTS` or not (R104, R107 to
R121). -/
def replyWord (c : Config.Codes) (op info flag : Word) (cts : Bool) : Word :=
  mk0 c op info ||| flag ||| (if cts then c.flagCts else 0#32)

/-! ## Packing bytes, vectors and table entries into words (R65, R117) -/

/-- `pack48` of R65: the first four bytes little-endian in one word, the last two in the next. -/
def pack48 (a : MacAddr) : Word × Word :=
  (a.a0.setWidth 32 ||| (a.a1.setWidth 32 <<< 8) ||| (a.a2.setWidth 32 <<< 16)
      ||| (a.a3.setWidth 32 <<< 24),
    a.a4.setWidth 32 ||| (a.a5.setWidth 32 <<< 8))

/-- `unpack48` of R65; bits 31:16 of the second word are ignored. -/
def unpack48 (w1 w2 : Word) : MacAddr :=
  { a0 := w1.extractLsb' 0 8
    a1 := w1.extractLsb' 8 8
    a2 := w1.extractLsb' 16 8
    a3 := w1.extractLsb' 24 8
    a4 := w2.extractLsb' 0 8
    a5 := w2.extractLsb' 8 8 }

/-- The four bytes of a word, least significant first (R65). -/
def wordBytes (w : Word) : List Byte :=
  [w.extractLsb' 0 8, w.extractLsb' 8 8, w.extractLsb' 16 8, w.extractLsb' 24 8]

/-- The word whose bytes are `b0` (least significant) to `b3`. -/
def wordOfBytes (b0 b1 b2 b3 : Byte) : Word :=
  b0.setWidth 32 ||| (b1.setWidth 32 <<< 8) ||| (b2.setWidth 32 <<< 16) ||| (b3.setWidth 32 <<< 24)

/-- `key_bytes` of R65: byte `4*i + j` of the key is bits `8*j+7 : 8*j` of word `i`. -/
def keyBytes (ws : List Word) : List Byte := ws.flatMap wordBytes

/-- `pack16` of R65: value `2*i` in the low half of word `i`, value `2*i+1` in the high half, 0 there
if there is none. -/
def pack16 : List (BitVec 16) → List Word
  | [] => []
  | [a] => [a.setWidth 32]
  | a :: b :: rest => (a.setWidth 32 ||| (b.setWidth 32 <<< 16)) :: pack16 rest

/-- The first `n` 12-bit vectors of packed words (R112); the upper four bits of each half are ignored
(R125). -/
def unpackVectors : Nat → List Word → List (BitVec 12)
  | 0, _ => []
  | _ + 1, [] => []
  | 1, w :: _ => [w.extractLsb' 0 12]
  | n + 2, w :: ws => w.extractLsb' 0 12 :: w.extractLsb' 16 12 :: unpackVectors n ws

/-- The sixteen two-bit entries of one payload word: entry `j` in bits `2*j+1 : 2*j` (R117). -/
def retaEntriesOf (w : Word) : List (BitVec 2) :=
  (List.range Config.retaPerWord).map fun j => w.extractLsb' (2 * j) 2

/-- The indirection table a payload carries: entry `16*i + j` from word `i` (R117, R178). -/
def retaOf (ws : List Word) : List (BitVec 2) := ws.flatMap retaEntriesOf

/-- Payload words 1 to `n` of a message; a word the buffer does not have reads 0. -/
def payloadWords (n : Nat) (ws : List Word) : List Word :=
  (List.range n).map fun i => ws.getD (1 + i) 0#32

/-- `decode_vlan(w0, w1)`, the inverse of the SET_VLAN encoder (R131). -/
def decodeVlan (c : Config.Codes) (w0 w1 : Word) : BitVec 12 × Bool :=
  (w1.extractLsb' 0 12, (infoField c w0).getLsbD 0)

/-! ## The multicast hash (R175) -/

/-- The filter type is one of the four variants 0 to 3 (R23). -/
def filterTypeValid (filterType : Word) : Bool := decide (filterType.toNat ≤ 3)

/-- `MTA_VECTOR(addr, type)`: twelve of the address bits 47:32, the window chosen by the type; 0 for an
invalid type (R175). -/
def mtaWindow (addr : MacAddr) (filterType : Word) : BitVec 12 :=
  let b4 : Word := addr.a4.setWidth 32
  let b5 : Word := addr.a5.setWidth 32
  if filterType = 0#32 then ((b4 >>> 4) ||| (b5 <<< 4)).setWidth 12
  else if filterType = 1#32 then ((b4 >>> 3) ||| (b5 <<< 5)).setWidth 12
  else if filterType = 2#32 then ((b4 >>> 2) ||| (b5 <<< 6)).setWidth 12
  else if filterType = 3#32 then (b4 ||| (b5 <<< 8)).setWidth 12
  else 0#12

/-! ## Counts -/

/-- `Budget(t)`: the iterations a mailbox poll may take; `none` is no bound (R140). -/
def budget (unarmed : Option Nat) (timeout : Word) : Option Nat :=
  if timeout = 0#32 then unarmed else some timeout.toNat

/-- Payload words of a multicast request: `ceil(cnt/2)` (R112, R171). -/
def halfUp (n : Nat) : Nat := (n + 1) / 2

/-- Words of the reply each mailbox-mediated command reads (R122). -/
def replyLen : Instr → Nat
  | .reset => Config.permMsgLen
  | .setMac _ | .setMacvlan _ _ | .negotiateApi _ => 3
  | .setVlan _ _ => 2
  | .updateMc _ => 1
  | .getReta => 1 + Config.retaWords
  | .getRssKey => 1 + Config.rssKeyWords
  | .readPosted len _ => len
  | .exchange _ rspLen => rspLen
  | _ => 0

end Sys2Proof.Machine
end

