-- ==== Sys2Proof/Decode.lean ====
section
/-!
DEFINITION. Decoding and encoding of mailbox messages.

A message is a sequence of 32-bit words (R100) without a length field (R127). The row of the opcode
table that word 0 matches fixes the message's kind and its length; the payload words follow. Host
commands have no binary encoding (R128), so no word decodes to one.
-/

namespace Sys2Proof

open Sys2Proof.Machine

/-- The rows of the opcode table that have a bit pattern. -/
inductive MsgRow where
  | resetReq
  | setMacReq
  | setVlanReq
  | setMulticastReq
  | setMacvlanReq
  | apiNegotiateReq
  | getRetaReq
  | getRssKeyReq
  | resetAck
  | setMacAck
  | setMacNack
  | apiNegotiateAck
  | apiNegotiateNack
  | setMacvlanAck
  | setMacvlanNack
  | getRetaSuccess
  | getRetaFailure
  | getRssKeySuccess
  | getRssKeyFailure
  | setVlanAck
  | setVlanNack
  | setMulticastAck
  | setMulticastNack
deriving DecidableEq, Repr

/-- One row: word 0 `w` belongs to it when `w & mask = pattern` ("match" and "mask" of the table). -/
structure TableRow where
  row : MsgRow
  pattern : Word
  mask : Word
deriving DecidableEq, Repr

/-- The info bit of a SET_VLAN message (R103). -/
def vlanInfo (c : Config.Codes) : Word := 1#32 <<< c.infoShift

/-- The five count bits of a SET_MULTICAST message (R103). -/
def countInfo (c : Config.Codes) : Word := 31#32 <<< c.infoShift

/-- A request row: the opcode with an info field of which the bits `free` are operands (R102). -/
def requestRow (row : MsgRow) (op free : Word) : TableRow := ⟨row, op, ~~~free⟩

/-- A reply row: the same with a verdict flag; `FLAG_CTS` is an operand too (R104). -/
def replyRow (c : Config.Codes) (row : MsgRow) (op free flag : Word) : TableRow :=
  ⟨row, op ||| flag, ~~~(c.flagCts ||| free)⟩

/-- The request rows of the opcode table (R106 to R120). -/
def requestRows (c : Config.Codes) : List TableRow :=
  [ requestRow .resetReq c.opReset 0#32,
    requestRow .setMacReq c.opSetMacAddr 0#32,
    requestRow .setVlanReq c.opSetVlan (vlanInfo c),
    requestRow .setMulticastReq c.opSetMulticast (countInfo c),
    requestRow .setMacvlanReq c.opSetMacvlan c.infoMask,
    requestRow .apiNegotiateReq c.opApiNegotiate 0#32,
    requestRow .getRetaReq c.opGetReta 0#32,
    requestRow .getRssKeyReq c.opGetRssKey 0#32 ]

/-- The reply rows of the opcode table (R107 to R121). -/
def replyRows (c : Config.Codes) : List TableRow :=
  [ replyRow c .resetAck c.opReset 0#32 c.flagAck,
    replyRow c .setMacAck c.opSetMacAddr 0#32 c.flagAck,
    replyRow c .setMacNack c.opSetMacAddr 0#32 c.flagNack,
    replyRow c .apiNegotiateAck c.opApiNegotiate 0#32 c.flagAck,
    replyRow c .apiNegotiateNack c.opApiNegotiate 0#32 c.flagNack,
    replyRow c .setMacvlanAck c.opSetMacvlan c.infoMask c.flagAck,
    replyRow c .setMacvlanNack c.opSetMacvlan c.infoMask c.flagNack,
    replyRow c .getRetaSuccess c.opGetReta 0#32 c.flagSuccess,
    replyRow c .getRetaFailure c.opGetReta 0#32 c.flagFailure,
    replyRow c .getRssKeySuccess c.opGetRssKey 0#32 c.flagSuccess,
    replyRow c .getRssKeyFailure c.opGetRssKey 0#32 c.flagFailure,
    replyRow c .setVlanAck c.opSetVlan (vlanInfo c) c.flagAck,
    replyRow c .setVlanNack c.opSetVlan (vlanInfo c) c.flagNack,
    replyRow c .setMulticastAck c.opSetMulticast (countInfo c) c.flagAck,
    replyRow c .setMulticastNack c.opSetMulticast (countInfo c) c.flagNack ]

/-- All rows with a bit pattern, in the table's order. -/
def tableRows (c : Config.Codes) : List TableRow := requestRows c ++ replyRows c

/-- Why a sequence of words is not a message of the table. -/
inductive DecodeError where
  /-- there is no word 0 -/
  | empty
  /-- word 0 matches no row (R126) -/
  | unknownWord0 (w : Word)
  /-- fewer payload words than the row has -/
  | truncated (row : MsgRow)
  /-- a multicast request with count 31: "matches the mask but is never sent" (R112) -/
  | countTooLarge
deriving DecidableEq, Repr

/-- The row word 0 belongs to, if any. -/
def findRow (c : Config.Codes) (w : Word) : Option MsgRow :=
  ((tableRows c).find? fun r => w &&& r.mask == r.pattern).map TableRow.row

/-- `FLAG_CTS` of a reply's word 0. -/
def ctsBit (c : Config.Codes) (w : Word) : Bool := hasBit w c.ctsBit

/-- Bit 0 of the info field, the `vlan_on` flag (R103). -/
def vlanOnBit (c : Config.Codes) (w : Word) : Bool := hasBit w c.infoShift

/-- The five count bits of the info field of a multicast message. -/
def countField (c : Config.Codes) (w : Word) : BitVec 5 := w.extractLsb' c.infoShift 5

/-- Reads the payload of a multicast request whose info field says `cnt` vectors (R112). -/
def readVectors (cnt : Nat) (rest : List Word) : Except DecodeError (Instr × List Word) :=
  if Config.mcMax < cnt then .error .countTooLarge
  else if rest.length < halfUp cnt then .error (.truncated .setMulticastReq)
  else .ok (.setMulticastReq (unpackVectors cnt rest), rest.drop (halfUp cnt))

/-- Drops the `n` payload words of a reply that its decoder reads and ignores (R109, R111, R121). -/
def skipWords (row : MsgRow) (n : Nat) (i : Instr) (rest : List Word) :
    Except DecodeError (Instr × List Word) :=
  if rest.length < n then .error (.truncated row) else .ok (i, rest.drop n)

/-- Reads one message of a known row: its fields from word 0 `w` and its payload from the words that
follow; the words after the message are handed back. -/
def readRow (c : Config.Codes) (row : MsgRow) (w : Word) (rest : List Word) :
    Except DecodeError (Instr × List Word) :=
  match row with
  | .resetReq => .ok (.resetReq, rest)
  | .setMacReq =>
    match rest with
    | w1 :: w2 :: more => .ok (.setMacReq (unpack48 w1 w2), more)
    | _ => .error (.truncated row)
  | .setVlanReq =>
    match rest with
    | w1 :: more => .ok (.setVlanReq (w1.extractLsb' 0 12) (vlanOnBit c w), more)
    | _ => .error (.truncated row)
  | .setMulticastReq => readVectors (countField c w).toNat rest
  | .setMacvlanReq =>
    match rest with
    | w1 :: w2 :: more =>
      .ok (.setMacvlanReq (infoField c w)
        (if infoField c w = 0#32 then MacAddr.zero else unpack48 w1 w2), more)
    | _ => .error (.truncated row)
  | .apiNegotiateReq =>
    match rest with
    | w1 :: _ :: more => .ok (.apiNegotiateReq w1, more)
    | _ => .error (.truncated row)
  | .getRetaReq => .ok (.getRetaReq, rest)
  | .getRssKeyReq => .ok (.getRssKeyReq, rest)
  | .resetAck =>
    match rest with
    | w1 :: w2 :: w3 :: more => .ok (.resetAck (ctsBit c w) (unpack48 w1 w2) w3, more)
    | _ => .error (.truncated row)
  | .setMacAck => skipWords row 2 (.setMacAck (ctsBit c w)) rest
  | .setMacNack => skipWords row 2 (.setMacNack (ctsBit c w)) rest
  | .apiNegotiateAck =>
    match rest with
    | w1 :: _ :: more => .ok (.apiNegotiateAck (ctsBit c w) w1, more)
    | _ => .error (.truncated row)
  | .apiNegotiateNack => skipWords row 2 (.apiNegotiateNack (ctsBit c w)) rest
  | .setMacvlanAck => skipWords row 2 (.setMacvlanAck (ctsBit c w) (infoField c w)) rest
  | .setMacvlanNack => skipWords row 2 (.setMacvlanNack (ctsBit c w) (infoField c w)) rest
  | .getRetaSuccess =>
    skipWords row Config.retaWords (.getRetaSuccess (ctsBit c w) (rest.take Config.retaWords)) rest
  | .getRetaFailure => skipWords row Config.retaWords (.getRetaFailure (ctsBit c w)) rest
  | .getRssKeySuccess =>
    skipWords row Config.rssKeyWords (.getRssKeySuccess (ctsBit c w) (rest.take Config.rssKeyWords))
      rest
  | .getRssKeyFailure => skipWords row Config.rssKeyWords (.getRssKeyFailure (ctsBit c w)) rest
  | .setVlanAck => skipWords row 1 (.setVlanAck (ctsBit c w) (vlanOnBit c w)) rest
  | .setVlanNack => skipWords row 1 (.setVlanNack (ctsBit c w) (vlanOnBit c w)) rest
  | .setMulticastAck => .ok (.setMulticastAck (ctsBit c w) (countField c w), rest)
  | .setMulticastNack => .ok (.setMulticastNack (ctsBit c w) (countField c w), rest)

/-- Decodes the message at the head of a sequence of words. Total: every sequence is a message of the
table followed by more words, or is refused with a name. -/
def decode (c : Config.Codes) : List Word → Except DecodeError (Instr × List Word)
  | [] => .error .empty
  | w :: rest =>
    match findRow c w with
    | none => .error (.unknownWord0 w)
    | some row => readRow c row w rest

/-! ## The encoder -/

/-- A 12-bit hash vector in its 16-bit half word (R112). -/
def widenVector (v : BitVec 12) : BitVec 16 := v.setWidth 16

/-- The words of a message (R106 to R121). Words a decoder ignores are written 0 (R125). A command has
no encoding (R128). -/
def encode (c : Config.Codes) : Instr → List Word
  | .resetReq => [mk0 c c.opReset 0#32]
  | .setMacReq addr => [mk0 c c.opSetMacAddr 0#32, (pack48 addr).1, (pack48 addr).2]
  | .setVlanReq vlanId vlanOn => [mk0 c c.opSetVlan (ofBit vlanOn), vlanId.setWidth 32]
  | .setMulticastReq vectors =>
    mk0 c c.opSetMulticast (BitVec.ofNat 32 vectors.length) :: pack16 (vectors.map widenVector)
  | .setMacvlanReq index addr =>
    if index = 0#32 then [mk0 c c.opSetMacvlan index, 0#32, 0#32]
    else [mk0 c c.opSetMacvlan index, (pack48 addr).1, (pack48 addr).2]
  | .apiNegotiateReq version => [mk0 c c.opApiNegotiate 0#32, version, 0#32]
  | .getRetaReq => [mk0 c c.opGetReta 0#32]
  | .getRssKeyReq => [mk0 c c.opGetRssKey 0#32]
  | .resetAck cts perm mcType =>
    [replyWord c c.opReset 0#32 c.flagAck cts, (pack48 perm).1, (pack48 perm).2, mcType]
  | .setMacAck cts => [replyWord c c.opSetMacAddr 0#32 c.flagAck cts, 0#32, 0#32]
  | .setMacNack cts => [replyWord c c.opSetMacAddr 0#32 c.flagNack cts, 0#32, 0#32]
  | .apiNegotiateAck cts version =>
    [replyWord c c.opApiNegotiate 0#32 c.flagAck cts, version, 0#32]
  | .apiNegotiateNack cts => [replyWord c c.opApiNegotiate 0#32 c.flagNack cts, 0#32, 0#32]
  | .setMacvlanAck cts index =>
    [replyWord c c.opSetMacvlan index c.flagAck cts, 0#32, 0#32]
  | .setMacvlanNack cts index =>
    [replyWord c c.opSetMacvlan index c.flagNack cts, 0#32, 0#32]
  | .getRetaSuccess cts payload => replyWord c c.opGetReta 0#32 c.flagSuccess cts :: payload
  | .getRetaFailure cts =>
    replyWord c c.opGetReta 0#32 c.flagFailure cts :: List.replicate Config.retaWords 0#32
  | .getRssKeySuccess cts payload =>
    replyWord c c.opGetRssKey 0#32 c.flagSuccess cts :: payload
  | .getRssKeyFailure cts =>
    replyWord c c.opGetRssKey 0#32 c.flagFailure cts
      :: List.replicate Config.rssKeyWords 0#32
  | .setVlanAck cts vlanOn =>
    [replyWord c c.opSetVlan (ofBit vlanOn) c.flagAck cts, 0#32]
  | .setVlanNack cts vlanOn =>
    [replyWord c c.opSetVlan (ofBit vlanOn) c.flagNack cts, 0#32]
  | .setMulticastAck cts count =>
    [replyWord c c.opSetMulticast (count.setWidth 32) c.flagAck cts]
  | .setMulticastNack cts count =>
    [replyWord c c.opSetMulticast (count.setWidth 32) c.flagNack cts]
  | .stop | .reset | .start | .init | .setMac _ | .setVlan _ _ | .mtaVector _ _ | .updateMc _
  | .setMacvlan _ _ | .getReta | .getRssKey | .negotiateApi _ | .checkLink | .writePosted _ _ _
  | .readPosted _ _ | .checkForRst _ | .readHandle _ | .exchange _ _ => []

/-! ## The opcode table's own numbering -/

/-- The `n` words of a message whose bits are the number `w`, bit 0 the least significant bit of word 0;
bits from `nbits` up are 0. -/
def wordsOfNumber (n nbits w : Nat) : List Word :=
  (List.range n).map fun k => BitVec.ofNat 32 ((w % 2 ^ nbits) / 2 ^ (32 * k))

/-- The message a machine with the parameters `p` reads from the table word `w` of `nbits` bits. A row
with a pattern gives at least word 0, so anything narrower than a word is no message. -/
def decodeNumber (p : Config.Params) (nbits w : Nat) : Option Instr :=
  if nbits < 32 then none
  else
    match decode p.codes (wordsOfNumber p.mbxSize nbits w) with
    | .ok (i, _) => some i
    | .error _ => none

/-- The instruction the decoder reads from a table word. The opcode table is written in the default
constants. -/
def decodeTableWord (nbits w : Nat) : Option Instr := decodeNumber Config.defaults nbits w

end Sys2Proof
end

