-- ==== Sys2Proof/Machine/Flags.lean ====
section
/-!
DEFINITION. Flags: the verdict flags of a reply, and the status bits of the `MBX` register.

The block has no arithmetic condition codes (R37). What its decisions read are the flag bits of reply
word 0, compared by `classify` (R124), and the bits of `MBX` (R43, R71) and `LINKS` (R42).
-/

namespace Sys2Proof.Machine

/-- Word 0 of a message (R100). -/
def word0 (ws : List Word) : Word := ws.headD 0#32

/-- What `classify` answers (R124). -/
inductive Verdict where
  | negative
  | positive
  | mismatch
deriving DecidableEq, Repr

/-- `classify(w, req0, POS, NEG)`: the whole of reply word 0 with `FLAG_CTS` cleared is compared with
the request's word 0 with one verdict flag set, the negative one first (R124). -/
def classify (c : Config.Codes) (w req0 pos neg : Word) : Verdict :=
  let r := w &&& ~~~c.flagCts
  if r = req0 ||| neg then .negative
  else if r = req0 ||| pos then .positive
  else .mismatch

/-- The value a read of `MBX` returns: four status bits, every other bit 0 (R71). -/
def mbxWord (w : Config.Window) (vfu pfu pfsts rstip : Bool) : Word :=
  (if vfu then bitMask w.mbxVfu else 0#32) ||| (if pfu then bitMask w.mbxPfu else 0#32)
    ||| (if pfsts then bitMask w.mbxPfsts else 0#32)
    ||| (if rstip then bitMask w.mbxRstip else 0#32)

/-- The sample of `MBX` shows the reset indicator (R145). -/
def showsReset (w : Config.Window) (v : Word) : Bool := hasBit v w.mbxRstip

/-- The sample of `MBX` shows that the VF holds the buffer lock (R141). -/
def showsLock (w : Config.Window) (v : Word) : Bool := hasBit v w.mbxVfu

/-- The sample of `MBX` shows that the PF has written a reply (R142). -/
def showsReply (w : Config.Window) (v : Word) : Bool := hasBit v w.mbxPfsts

/-- The sample of `LINKS` shows the link up (R42). -/
def showsLink (w : Config.Window) (v : Word) : Bool := hasBit v w.linksUp

/-- The two-bit field `LINKS.SPEED` of a sample (R42). -/
def speedField (w : Config.Window) (v : Word) : BitVec 2 := v.extractLsb' w.linksSpeedLo 2

end Sys2Proof.Machine
end

