-- ==== Sys2Proof/Machine/State.lean ====
section
/-!
DEFINITION. The machine's state, as plain data, and the state after reset.

Four groups, as the spec has them: the handle `H.*` (R20 to R34), the staging buffer and sequencer (R35,
R36), the device register window with its hidden state (R38 to R50), and what the model adds for itself:
the schedule of the agents' moves, the tape and counter behind `any()`, the result handed to the Host,
the diagnostic stream, the sticky refusal mark of R260, and the parameters.
-/

namespace Sys2Proof.Machine

/-! ## Values -/

/-- `H.fsm`, the control state (R31, R210). -/
inductive Fsm where
  | stopped
  | resetting
  | awaitingPermAddr
  | ready
deriving DecidableEq, Repr

/-- `H.link_speed`; `unknown` is the value 0 of the source (R28). -/
inductive Speed where
  | unknown
  | speed10G
  | speed1G
  | speed100M
deriving DecidableEq, Repr

/-- The nine error kinds (R250 to R259). -/
inductive ErrorKind where
  | transportTimeout
  | protocolMismatch
  | nacked
  | permissionDenied
  | notSupported
  | deviceRemoved
  | resetTimeout
  | invalidMacAddr
  | resetInProgress
deriving DecidableEq, Repr

/-- The status of a command: `OK` or exactly one error kind (R250). -/
inductive Status where
  | ok
  | error (kind : ErrorKind)
deriving DecidableEq, Repr

/-- The value of a handle register as READ_HANDLE returns it (R130). -/
inductive HandleValue where
  | address (a : MacAddr)
  | word (w : Word)
  | bytes (bs : List Byte)
  | table (entries : List (BitVec 2))
  | flag (b : Bool)
  | speed (v : Speed)
  | control (v : Fsm)
deriving DecidableEq, Repr

/-- The outputs a command returns beside its status (R128, R130). -/
inductive Output where
  | none
  | vector (v : BitVec 12)
  | words (ws : List Word)
  | reta (entries : List (BitVec 2))
  | rssKey (key : List Byte)
  | link (up : Bool) (speed : Speed)
  /-- CHECK_FOR_RST: `true` is Asserted, `false` is Cleared (R145) -/
  | indicator (asserted : Bool)
  | handle (v : HandleValue)
deriving DecidableEq, Repr

/-- What a command returned to the Host (R130, R262). -/
structure Result where
  status : Status
  output : Output
deriving DecidableEq, Repr

/-- The diagnostic stream's one event (R271). -/
inductive Diag where
  | badFilterType (filterType : Word)
deriving DecidableEq, Repr

/-! ## The handle (R20 to R34) -/

/-- The handle registers `H.*`. -/
structure Handle where
  /-- `H.perm_addr` (R21) -/
  permAddr : MacAddr
  /-- `H.cur_addr` (R22) -/
  curAddr : MacAddr
  /-- `H.mc_filter_type`, a whole word (R23) -/
  mcFilterType : Word
  /-- `H.api_version` (R24) -/
  apiVersion : Word
  /-- `H.rss_key[0..39]` (R25) -/
  rssKey : List Byte
  /-- `H.reta[0..127]` (R26) -/
  reta : List (BitVec 2)
  /-- `H.link_up` (R27) -/
  linkUp : Bool
  /-- `H.link_speed` (R28) -/
  linkSpeed : Speed
  /-- `H.mbx_timeout`, 0 = not armed (R29) -/
  mbxTimeout : Word
  /-- `H.adapter_stopped` (R30) -/
  adapterStopped : Bool
  /-- `H.fsm` (R31) -/
  fsm : Fsm
  /-- `H.mac_valid` (R32) -/
  macValid : Bool
  /-- `H.removed`, sticky (R33) -/
  removed : Bool
deriving DecidableEq, Repr

/-! ## The sequencer (R35) -/

/-- Which transport contract a lock attempt or a failure belongs to: posting a message (R143) or
reading one (R144). -/
inductive Use where
  | post
  | read
deriving DecidableEq, Repr

/-- The positions in the commands' pseudocode. A step at a point executes one primitive of R12 (a register
access, a `Delay`, a read or write of one register), or tests what has been read. Where several updates
follow each other with no register access between them, the point puts the later ones into the frame's
list of pending updates, and each of them is a step of its own (assumption 6). -/
inductive Point where
  /-- the body of START, INIT, MTA_VECTOR, READ_HANDLE -/
  | run
  /-- UPDATE_MC: the loop that hashes the addresses (R176) -/
  | hash
  /-- the request is built in `MSG`, one word a step -/
  | encode
  /-- WRITE_POSTED: the removal test (R143) -/
  | postStart
  /-- AcquireLock: `n <- Budget(H.mbx_timeout)` (R141) -/
  | lockBudget (use : Use)
  /-- AcquireLock: `RegWrite(MBX, VFU)` (R141) -/
  | lockWrite (use : Use)
  /-- AcquireLock: `v <- RegRead(MBX)` -/
  | lockRead (use : Use)
  /-- AcquireLock: the tests of `v` and the count -/
  | lockTest (use : Use)
  /-- AcquireLock: `Delay(MBX_POLL_DELAY)` -/
  | lockDelay (use : Use)
  /-- WRITE_POSTED: `RegWrite(MBMEM[i], msg[i])` -/
  | copyOut
  /-- WRITE_POSTED: `RegWrite(MBX, REQ)` -/
  | postReq
  /-- WRITE_POSTED: `Flush()` -/
  | postFlush
  /-- WRITE_POSTED: the last removal test and the return -/
  | postDone
  /-- READ_POSTED: the removal test (R144) -/
  | readStart
  /-- PollStatus: `n <- Budget(H.mbx_timeout)` (R142) -/
  | pollBudget
  /-- PollStatus: `v <- RegRead(MBX)` (R142) -/
  | pollRead
  /-- PollStatus: the tests of `v` and the count -/
  | pollTest
  /-- PollStatus: `Delay(MBX_POLL_DELAY)` -/
  | pollDelay
  /-- READ_POSTED: `RegRead(MBMEM[i])` -/
  | copyIn
  /-- READ_POSTED: `buf[i] <- ` the value read -/
  | copyStore
  /-- READ_POSTED: the removal test inside the copy loop -/
  | copyInTest
  /-- READ_POSTED: `RegWrite(MBX, ACK)` -/
  | ackWrite
  /-- READ_POSTED: `Flush()` -/
  | ackFlush
  /-- READ_POSTED: the last removal test and the return -/
  | readDone
  /-- the reply in `MSG` is interpreted -/
  | decode
  /-- STOP: `t <- RegRead(TXDCTL[q])` (R213) -/
  | txRead
  /-- STOP: `RegWrite(TXDCTL[q], t & ~ENABLE)` -/
  | txWrite
  /-- STOP: `r <- RegRead(RXDCTL[q])` -/
  | rxRead
  /-- STOP: `RegWrite(RXDCTL[q], r & ~ENABLE)` -/
  | rxWrite
  /-- STOP: `RegWrite(INT_MASK, 0)` -/
  | maskWrite
  /-- STOP: `Flush()` -/
  | stopFlush
  /-- STOP: the two handle writes and the return, one a step -/
  | stopDone
  /-- RESET: `RegWrite(CTRL, RST)` (R214) -/
  | ctrlWrite
  /-- RESET: `Flush()` -/
  | ctrlFlush
  /-- RESET: `Delay(RESET_SETTLE)`, and the count of the indicator loop -/
  | settle
  /-- RESET: `c <- CHECK_FOR_RST(0)` -/
  | rstSample
  /-- RESET: the tests of the sample and the count -/
  | rstTest
  /-- RESET: `Delay(RST_POLL_DELAY)` -/
  | rstDelay
  /-- RESET: the timeout is armed and the version set back, one a step -/
  | arm
  /-- RESET: `H.fsm <- AwaitingPermAddr` -/
  | await
  /-- RESET: `Delay(RESET_REPLY_SETTLE)` -/
  | replySettle
  /-- CHECK_LINK, CHECK_FOR_RST: `v <- RegRead(MBX)` (R145, R240) -/
  | indicatorRead
  /-- CHECK_LINK, CHECK_FOR_RST: the tests of that sample -/
  | indicatorTest
  /-- CHECK_LINK: `l <- RegRead(LINKS)` -/
  | linksRead
  /-- CHECK_LINK: the removal test and the decoding of `l` -/
  | linksTest
deriving DecidableEq, Repr

/-- What a `return` hands to the Host: a value known when the step is planned, or handle registers read
when it happens. -/
inductive Returned where
  | value (o : Output)
  /-- `return OK, H.reta` (R178) -/
  | reta
  /-- `return OK, H.rss_key` (R179) -/
  | rssKey
  /-- `return (H.link_up, H.link_speed, OK)` (R240) -/
  | link
deriving DecidableEq, Repr

/-- One internal primitive of R12: a write of one handle register, of one word of the staging buffer, or
of a local, a diagnostic, or the `return` or `raise` that ends a command. Each is one step of the block
(R35). -/
inductive Prim where
  /-- `MSG[i] <- w` -/
  | msg (i : Nat) (w : Word)
  /-- `buf[i] <- any()`, the clean-up of a READ_POSTED that raised (R144) -/
  | anyBuf (i : Nat)
  /-- `MSG[i] <- any()`, where the READ_POSTED that raised read into another buffer (R36, R263) -/
  | anyMsg (i : Nat)
  /-- `v[k] <- zext_16(MTA_VECTOR(list[k], H.mc_filter_type))`: the vector joins the request (R176) -/
  | hash (vector : BitVec 12)
  /-- `emit Diag` (R175, R271) -/
  | emit (d : Diag)
  /-- `H.perm_addr <- a` -/
  | permAddr (a : MacAddr)
  /-- `H.cur_addr <- a` -/
  | curAddr (a : MacAddr)
  /-- `H.cur_addr <- H.perm_addr` -/
  | curFromPerm
  /-- `H.mc_filter_type <- w` -/
  | filterType (w : Word)
  /-- `H.api_version <- w` -/
  | apiVersion (w : Word)
  /-- `H.rss_key[0..39] <- bs` -/
  | rssKey (bs : List Byte)
  /-- `H.reta[k] <- e` -/
  | reta (k : Nat) (e : BitVec 2)
  /-- `H.link_up <- b` -/
  | linkUp (b : Bool)
  /-- `H.link_speed <- sp` -/
  | linkSpeed (sp : Speed)
  /-- `H.link_speed <- any()` (R242) -/
  | speedAny
  /-- `H.mbx_timeout <- w` -/
  | mbxTimeout (w : Word)
  /-- `H.adapter_stopped <- b` -/
  | stopped (b : Bool)
  /-- `H.fsm <- x` -/
  | fsm (x : Fsm)
  /-- `H.mac_valid <- b` -/
  | macValid (b : Bool)
  /-- `return` or `raise` (R262) -/
  | ends (status : Status) (what : Returned)
deriving DecidableEq, Repr

/-- `Busy(cmd, point, locals)`: the command being executed with its latched operands, the position in
its pseudocode, and its local variables (R35). -/
structure Frame where
  /-- the command, operands latched at acceptance -/
  cmd : Instr
  /-- the position in the command's pseudocode -/
  point : Point
  /-- the loop counter `n`; `none` is `INF` (R140, R268) -/
  n : Option Nat
  /-- the loop index `i` or `q` -/
  i : Nat
  /-- the sampled register value `v`, `t`, `r` or `l` -/
  v : Word
  /-- the request message the command sends, once it is known -/
  req : Option Instr
  /-- `req0`, the request's word 0 (R124) -/
  req0 : Word
  /-- words of the message WRITE_POSTED sends -/
  reqLen : Nat
  /-- words of the message READ_POSTED reads -/
  rspLen : Nat
  /-- the updates that come next, each a step of its own, before the pseudocode goes on at `point` -/
  todo : List Prim
deriving DecidableEq, Repr

/-- `seq`, the sequencer state (R35). -/
inductive Seq where
  | idle
  | busy (f : Frame)
deriving DecidableEq, Repr

/-! ## The device (R38 to R50) -/

/-- The registers of the window that the block's access primitives take by name (R40 to R46, R66). -/
inductive Reg where
  | ctrl
  | status
  | links
  | intMask
  | mbmem (i : Nat)
  | mbx
  | rxdctl (q : Nat)
  | txdctl (q : Nat)
deriving DecidableEq, Repr

/-- The two control registers of one queue pair (R46). -/
structure QueueRegs where
  /-- `RXDCTL[q]` -/
  rxdctl : Word
  /-- `TXDCTL[q]` -/
  txdctl : Word
deriving DecidableEq, Repr

/-- The shared mailbox region as (byte address, byte) pairs, addresses strictly rising and no entry
equal to what an unlisted address reads as (`Memory.wf` in Ops.lean). -/
abbrev Memory := List Host.Cell

/-- The device side of the window. `CTRL` and `STATUS` hold nothing: `CTRL.RST` reads as 0 and every
read of `STATUS` is `any()` (R40, R41). -/
structure Device where
  /-- `MBX.VFU`, the lock bit (R43, R70) -/
  vfu : Bool
  /-- `MBX.PFU`, the PF owns the buffer (R43, R70) -/
  pfu : Bool
  /-- `MBX.PFSTS`, the PF has written a reply (R43) -/
  pfsts : Bool
  /-- `MBX.RSTIP`, the reset indicator (R43) -/
  rstip : Bool
  /-- `req_pending` (R49) -/
  reqPending : Bool
  /-- `ack_pending` (R49) -/
  ackPending : Bool
  /-- `LINKS` (R42) -/
  links : Word
  /-- `INT_MASK` (R45) -/
  intMask : Word
  /-- `RXDCTL[q]`, `TXDCTL[q]`; the length of the list is `NUM_QUEUES` (R46) -/
  queues : List QueueRegs
  /-- `MBMEM[0..MBX_SIZE-1]` (R44) -/
  mbmem : Memory
  /-- `dev_removed`, sticky (R50) -/
  removed : Bool
deriving DecidableEq, Repr

/-! ## The agents' moves (R6, R79, R80, R83) -/

/-- The PF's steps (R80). -/
inductive PfStep where
  | take
  | takeAck
  | lock
  | write (i : Nat) (x : Word)
  | post
  | unlock
  | rst (b : Bool)
  | link (x : Word)
deriving DecidableEq, Repr

/-- The device environment's steps (R79). -/
inductive DevStep where
  | drain
  | remove
deriving DecidableEq, Repr

/-- One scheduled move of one of the four agents of R6. -/
inductive Move where
  /-- the block makes its next step -/
  | vf
  /-- the Host issues a command -/
  | issue (i : Instr)
  /-- the Host receives the result of the last command -/
  | receive
  /-- the PF makes a step -/
  | pf (p : PfStep)
  /-- the device environment makes a step -/
  | dev (d : DevStep)
deriving DecidableEq, Repr

/-! ## Reasons to stop -/

/-- Why the machine stops with a fault. -/
inductive Fault where
  /-- Raised by a command's meaning when the sequencer stands at a point that is no position in that
  command's pseudocode. No state a run from reset reaches is like this, and the spec has no such state.
  Safe. -/
  | badPoint
deriving DecidableEq, Repr

/-- Why the machine refuses an instruction. The spec's own `refuse` (R260) is not one of these: it is the
sticky mark `refusalMark` of the state. -/
inductive Refusal where
  /-- Raised by exec for an instruction that has no meaning yet. Safe. -/
  | notModelled (mnemonic : String)
deriving DecidableEq, Repr

/-! ## The state -/

/-- The machine's state. -/
structure State where
  /-- the handle registers (R20 to R33) -/
  h : Handle
  /-- the sequencer (R35) -/
  seq : Seq
  /-- `MSG`, the staging buffer of `MBX_SIZE` words (R8, R36) -/
  msg : List Word
  /-- the Host's buffer that a READ_POSTED of the Host fills, "the caller's buffer" of R72 -/
  hostBuf : List Word
  /-- the device registers (R38 to R50) -/
  dev : Device
  /-- `wbuf`, the posted writes not yet applied, oldest first (R48); an offset is a natural number
  (assumption 43) -/
  wbuf : List (Nat × Word)
  /-- what the PF learned at its last `PF-take` (R80) -/
  pfSeen : List Word
  /-- the result of the last command, until the Host receives it (R83, R130) -/
  result : Option Result
  /-- the diagnostic stream, oldest first (R271) -/
  diag : List Diag
  /-- the sticky mark of a refusal (R260) -/
  refusalMark : Bool
  /-- MODEL: the moves the agents make next; when it is empty the block moves (R6, R51) -/
  sched : List Move
  /-- MODEL: scripted values for the next `any()` draws -/
  tape : List Word
  /-- MODEL: how many draws the free value `Config.anyWord` has answered -/
  drawn : Nat
  /-- the parameters, never written (R34, R51) -/
  cfg : Config.Params
deriving DecidableEq, Repr

/-! ## The state after reset -/

/-- The handle at construction: the middle column of R52. The fields R52 leaves unspecified hold zeros
(assumption 4). -/
def Handle.constructed (p : Config.Params) : Handle :=
  { permAddr := MacAddr.zero
    curAddr := MacAddr.zero
    mcFilterType := 0#32
    apiVersion := p.apiBase
    rssKey := List.replicate Config.rssKeyBytes 0#8
    reta := List.replicate Config.retaEntries 0#2
    linkUp := false
    linkSpeed := .unknown
    mbxTimeout := 0#32
    adapterStopped := false
    fsm := .stopped
    macValid := false
    removed := false }

/-- The device at power-on. R52 leaves every register of it unspecified; the model names zeros
(assumption 5). -/
def Device.powerOn (p : Config.Params) : Device :=
  { vfu := false
    pfu := false
    pfsts := false
    rstip := false
    reqPending := false
    ackPending := false
    links := 0#32
    intMask := 0#32
    queues := List.replicate p.numQueues ⟨0#32, 0#32⟩
    mbmem := []
    removed := false }

/-- The machine with the parameters `p` right after handle construction: `Idle`, waiting for a command
(R52, R290). -/
def State.constructed (p : Config.Params) : State :=
  { h := Handle.constructed p
    seq := .idle
    msg := List.replicate p.mbxSize 0#32
    hostBuf := List.replicate p.mbxSize 0#32
    dev := Device.powerOn p
    wbuf := []
    pfSeen := []
    result := none
    diag := []
    refusalMark := false
    sched := []
    tape := []
    drawn := 0
    cfg := p }

/-- The machine right after handle construction, with the spec's default parameters. -/
def State.reset : State := State.constructed Config.defaults

end Sys2Proof.Machine
end

