-- ==== Sys2Proof/Machine/Ops.lean ====
section
/-!
DEFINITION. The named operations over the state: the mailbox memory, the free draws, the register
access primitives with their posted-write queue, and the delivery of results and errors.
-/

namespace Sys2Proof.Machine

/-! ## The mailbox memory (R44, R66) -/

/-- What a byte of the mailbox region that nothing has written reads as (assumption 7). -/
def Memory.unlisted (_ : Nat) : Byte := 0#8

/-- One byte of the memory. -/
def Memory.readByte : Memory → Nat → Byte
  | [], a => Memory.unlisted a
  | (k, b) :: m, a => if a = k then b else Memory.readByte m a

/-- Writes one byte, keeping the canonical form: writing what an unlisted address reads as removes the
entry. -/
def Memory.writeByte : Memory → Nat → Byte → Memory
  | [], a, b => if b = Memory.unlisted a then [] else [(a, b)]
  | (k, c) :: m, a, b =>
    if a < k then if b = Memory.unlisted a then (k, c) :: m else (a, b) :: (k, c) :: m
    else if a = k then if b = Memory.unlisted a then m else (a, b) :: m
    else (k, c) :: Memory.writeByte m a b

/-- The canonical form: addresses strictly rising, and no entry equal to what an unlisted address reads
as. -/
def Memory.wf : Memory → Bool
  | [] => true
  | [(k, b)] => decide (b ≠ Memory.unlisted k)
  | (k, b) :: (k', b') :: m =>
    decide (b ≠ Memory.unlisted k) && decide (k < k') && Memory.wf ((k', b') :: m)

/-- The 32-bit word at a byte address. The block only ever accesses whole words (R66), so the order of
the four bytes cannot be seen (assumption 8). -/
def Memory.readWord (m : Memory) (a : Nat) : Word :=
  wordOfBytes (m.readByte a) (m.readByte (a + 1)) (m.readByte (a + 2)) (m.readByte (a + 3))

/-- Stores a 32-bit word at a byte address. -/
def Memory.writeWord (m : Memory) (a : Nat) (w : Word) : Memory :=
  (((m.writeByte a (w.extractLsb' 0 8)).writeByte (a + 1) (w.extractLsb' 8 8)).writeByte (a + 2)
    (w.extractLsb' 16 8)).writeByte (a + 3) (w.extractLsb' 24 8)

/-- The byte address of mailbox word `i`: `OFF_MBMEM + 4*i` (R66, R72), which does not wrap (assumption 43). -/
def mbmemAddr (w : Config.Window) (i : Nat) : Nat := w.offMbmem + 4 * i

/-- `MBMEM[i]` (R44). -/
def Device.mbmemWord (w : Config.Window) (d : Device) (i : Nat) : Word :=
  d.mbmem.readWord (mbmemAddr w i)

/-- `MBMEM[i] <- x` (R44). -/
def Device.setMbmemWord (w : Config.Window) (d : Device) (i : Nat) (x : Word) : Device :=
  { d with mbmem := d.mbmem.writeWord (mbmemAddr w i) x }

/-! ## Updates of the state -/

/-- Changes the handle. -/
def State.modHandle (s : State) (g : Handle → Handle) : State := { s with h := g s.h }

/-- Changes the device. -/
def State.modDev (s : State) (g : Device → Device) : State := { s with dev := g s.dev }

/-- Sets the sequencer to a frame. -/
def State.setFrame (s : State) (f : Frame) : State := { s with seq := .busy f }

/-- Moves the running command to another point. -/
def State.goto (s : State) (f : Frame) (p : Point) : State := s.setFrame { f with point := p }

/-- Writes one word of a buffer (R36). -/
def setWord (ws : List Word) (i : Nat) (w : Word) : List Word := ws.set i w

/-- Writes a message over the first words of a buffer; the words behind it and the buffer's length stay
(R36). -/
def overlay (ws buf : List Word) : List Word := (ws ++ buf.drop ws.length).take buf.length

/-! ## Free draws: `any()` (R12) -/

/-- One `any()` of 32 bits: the next scripted value, or, when the tape has run out, the free value
`Config.anyWord` at the count of draws. -/
def drawWord (s : State) : Word × State :=
  match s.tape with
  | w :: rest => (w, { s with tape := rest })
  | [] => (Config.anyWord s.drawn, { s with drawn := s.drawn + 1 })

/-- `k` draws, in order. -/
def drawWords : Nat → State → List Word × State
  | 0, s => ([], s)
  | k + 1, s =>
    let d := drawWord s
    let r := drawWords k d.2
    (d.1 :: r.1, r.2)

/-- An `any()` of six bytes. -/
def drawAddr (s : State) : MacAddr × State :=
  let d := drawWord s
  let e := drawWord d.2
  (unpack48 d.1 e.1, e.2)

/-- An `any()` among the four link speeds (R242). -/
def drawSpeed (s : State) : Speed × State :=
  let d := drawWord s
  (if d.1.extractLsb' 0 2 = 0#2 then .unknown
    else if d.1.extractLsb' 0 2 = 1#2 then .speed10G
    else if d.1.extractLsb' 0 2 = 2#2 then .speed1G
    else .speed100M, d.2)

/-- A read of `H.perm_addr`: its content while `H.mac_valid = 1`, else `any()` (R21). -/
def readPermAddr (s : State) : MacAddr × State :=
  if s.h.macValid then (s.h.permAddr, s) else drawAddr s

/-! ## The address map (R68) -/

/-- The byte offset of a register in the window (R11, R68). -/
def Reg.offset (p : Config.Params) : Reg → Nat
  | .ctrl => p.window.offCtrl
  | .status => p.window.offStatus
  | .links => p.window.offLinks
  | .intMask => p.window.offIntMask
  | .mbmem i => mbmemAddr p.window i
  | .mbx => p.window.offMbx
  | .rxdctl q => p.window.offRxdctl.getD q 0
  | .txdctl q => p.window.offTxdctl.getD q 0

/-- The registers of this spec in the window of one machine (R40 to R46). -/
def allRegs (p : Config.Params) : List Reg :=
  [.ctrl, .status, .links, .intMask, .mbx] ++ (List.range p.mbxSize).map .mbmem
    ++ (List.range p.numQueues).map .rxdctl ++ (List.range p.numQueues).map .txdctl

/-- The register of this spec at an offset of the window; `none` for every other offset (R47, R68). -/
def regAt (p : Config.Params) (off : Nat) : Option Reg :=
  (allRegs p).find? fun r => decide (r.offset p = off)

/-! ## The device's registers -/

/-- `RXDCTL[q] <- v` (R46). -/
def setRxdctl (qs : List QueueRegs) (q : Nat) (v : Word) : List QueueRegs :=
  qs.modify q fun r => { r with rxdctl := v }

/-- `TXDCTL[q] <- v` (R46). -/
def setTxdctl (qs : List QueueRegs) (q : Nat) (v : Word) : List QueueRegs :=
  qs.modify q fun r => { r with txdctl := v }

/-- The registers of queue `q`. -/
def queueOf (qs : List QueueRegs) (q : Nat) : QueueRegs := qs.getD q ⟨0#32, 0#32⟩

/-- A queue control word with `ENABLE` cleared and every other bit kept (R46, R213). -/
def clearEnable (w : Config.Window) (v : Word) : Word := v &&& ~~~bitMask w.dctlEnable

/-- What a write of `w` to `MBX` does at the device, in one step (R71). -/
def applyMbx (win : Config.Window) (w : Word) (d : Device) : Device :=
  { d with
    reqPending := d.reqPending || hasBit w win.mbxReq
    pfsts := d.pfsts && !hasBit w win.mbxAck
    ackPending := d.ackPending || hasBit w win.mbxAck
    vfu := hasBit w win.mbxVfu && !d.pfu }

/-- Stores the words `ws` in `MBMEM` from word `i` on. -/
def fillMbmem (win : Config.Window) : Nat → List Word → Device → Device
  | _, [], d => d
  | i, w :: ws, d => fillMbmem win (i + 1) ws (d.setMbmemWord win i w)

/-- The registers the function-level reset sets (R82), all but `MBMEM`. DEDUCED: the bits of
`RXDCTL[q]` and `TXDCTL[q]` other than `ENABLE` keep their values, as in the end state of program P1 of
95_test_vectors.md; R46's table calls their reset value unspecified and R82 does not mention them
(assumption 39). -/
def resetRegs (w : Config.Window) (d : Device) : Device :=
  { d with
    vfu := false
    pfsts := false
    rstip := true
    reqPending := false
    ackPending := false
    intMask := 0#32
    queues := d.queues.map fun r =>
      { rxdctl := clearEnable w r.rxdctl, txdctl := clearEnable w r.txdctl } }

/-- The function-level reset, one device step: the registers of R82, and every word of `MBMEM` is
`any()`. -/
def functionLevelReset (s : State) : State :=
  let d := drawWords s.cfg.mbxSize s
  d.2.modDev fun v => fillMbmem s.cfg.window 0 d.1 (resetRegs s.cfg.window v)

/-- What a write of `v` to register `r` does at a device that is present (R40 to R46, R71, R79). A
read-only register ignores it. -/
def writeReg (r : Reg) (v : Word) (s : State) : State :=
  match r with
  | .ctrl => if hasBit v s.cfg.window.ctrlRst then functionLevelReset s else s
  | .status => s
  | .links => s
  | .intMask => s.modDev fun d => { d with intMask := v }
  | .mbmem i => s.modDev fun d => d.setMbmemWord s.cfg.window i v
  | .mbx => s.modDev (applyMbx s.cfg.window v)
  | .rxdctl q => s.modDev fun d => { d with queues := setRxdctl d.queues q v }
  | .txdctl q => s.modDev fun d => { d with queues := setTxdctl d.queues q v }

/-- Applies one posted write: nothing is applied once the device is removed, and a write to an offset
that is no register of this spec has no effect (R62, R79). -/
def applyWrite (e : Nat × Word) (s : State) : State :=
  if s.dev.removed then s
  else
    match regAt s.cfg e.1 with
    | none => s
    | some r => writeReg r e.2 s

/-- `Dev-drain`: removes the oldest posted write and applies it (R79). -/
def drainOne (s : State) : State :=
  match s.wbuf with
  | [] => s
  | e :: rest => applyWrite e { s with wbuf := rest }

/-- Applies a list of posted writes, oldest first (R64). -/
def applyAll : List (Nat × Word) → State → State
  | [], s => s
  | e :: rest, s => applyAll rest (applyWrite e s)

/-- Applies every posted write, oldest first (R61, R64). -/
def drainAll (s : State) : State := applyAll s.wbuf { s with wbuf := [] }

/-- The value a register of a present device reads as. `STATUS` is `any()` at every read (R41);
`CTRL.RST` reads as 0 and the rest of `CTRL` is not described (R40). -/
def readReg (r : Reg) (s : State) : Word × State :=
  match r with
  | .ctrl =>
    let d := drawWord s
    (d.1 &&& ~~~bitMask s.cfg.window.ctrlRst, d.2)
  | .status => drawWord s
  | .links => (s.dev.links, s)
  | .intMask => (s.dev.intMask, s)
  | .mbmem i => (s.dev.mbmemWord s.cfg.window i, s)
  | .mbx => (mbxWord s.cfg.window s.dev.vfu s.dev.pfu s.dev.pfsts s.dev.rstip, s)
  | .rxdctl q => ((queueOf s.dev.queues q).rxdctl, s)
  | .txdctl q => ((queueOf s.dev.queues q).txdctl, s)

/-- The value a read of a register returns: all-ones once the device is removed (R50, R61). -/
def sampleReg (r : Reg) (s : State) : Word × State :=
  if s.dev.removed then (allOnes, s) else readReg r s

/-! ## The access primitives -/

/-- `H.removed <- 1` (R33). -/
def markRemoved (s : State) : State := s.modHandle fun h => { h with removed := true }

/-- The removal check on a value just read: an all-ones value is confirmed by a read of `STATUS`, or
confirms itself if it is `STATUS` (R61). -/
def confirmRemoval (r : Reg) (v : Word) (s : State) : State :=
  if v = allOnes then
    if r = .status then markRemoved s
    else
      let c := sampleReg .status s
      if c.1 = allOnes then markRemoved c.2 else c.2
  else s

/-- `RegRead(r)`, one atomic step (R61). -/
def regRead (r : Reg) (s : State) : Word × State :=
  if s.h.removed then (allOnes, s)
  else
    let p := sampleReg r (drainAll s)
    (p.1, confirmRemoval r p.1 p.2)

/-- `RegWrite(r, v)`, one atomic step: the write is posted (R62). -/
def regWrite (r : Reg) (v : Word) (s : State) : State :=
  if s.h.removed then s else { s with wbuf := s.wbuf ++ [(r.offset s.cfg, v)] }

/-- `Flush()`: a read of `STATUS` whose value is discarded (R63). -/
def flush (s : State) : State := (regRead .status s).2

/-- `Delay(d)`: no effect on any state (R78); the lengths stand in the parameters
(`Config.Params.delayMicros`). -/
def delay (_ : Config.DelayName) (s : State) : State := s

/-! ## Buffers of the running command -/

/-- `buf[i] <- w`: the Host's buffer for a READ_POSTED command, else `MSG` (R72, R144). -/
def storeWord (cmd : Instr) (i : Nat) (w : Word) (s : State) : State :=
  match cmd with
  | .readPosted _ _ => { s with hostBuf := setWord s.hostBuf i w }
  | _ => { s with msg := setWord s.msg i w }

/-- One more vector of a multicast request (R176). -/
def addVector (v : BitVec 12) : Option Instr → Option Instr
  | some (.setMulticastReq vs) => some (.setMulticastReq (vs ++ [v]))
  | r => r

/-! ## Acceptance, refusal, and the end of a command

What plays the part of an exception is an error kind returned as the status of a command (R250). Taking
it is the primitive `ends` below, planned by `raise` after the clean-up of the enclosing rules: nothing is
saved, no vector is fetched, no mode changes (R262). A command that succeeds ends by the same primitive
with status `OK`; there is no return instruction (R264). -/

/-- Accepts a command: its operands are latched and the sequencer is busy (R35). -/
def accept (f : Frame) (s : State) : State := { s with seq := .busy f, result := none }

/-- `refuse`: the command is not admitted; the run carries a sticky mark (R260). -/
def refuse (s : State) : State := { s with refusalMark := true }

/-- The command ends and hands its result to the Host (R262). -/
def finish (r : Result) (s : State) : State := { s with seq := .idle, result := some r }

/-- What a `return` hands over (R128, R130). -/
def Returned.output (h : Handle) : Returned → Output
  | .value o => o
  | .reta => .reta h.reta
  | .rssKey => .rssKey h.rssKey
  | .link => .link h.linkUp h.linkSpeed

/-! ## Internal primitives, one a step (R12, R35) -/

/-- What one internal primitive does. -/
def runPrim (p : Prim) (s : State) : State :=
  match p with
  | .msg i w => { s with msg := setWord s.msg i w }
  | .anyBuf i =>
    let d := drawWord s
    match d.2.seq with
    | .busy f => storeWord f.cmd i d.1 d.2
    | .idle => d.2
  | .anyMsg i =>
    let d := drawWord s
    { d.2 with msg := setWord d.2.msg i d.1 }
  | .hash v =>
    match s.seq with
    | .busy f => s.setFrame { f with req := addVector v f.req }
    | .idle => s
  | .emit d => { s with diag := s.diag ++ [d] }
  | .permAddr a => s.modHandle fun h => { h with permAddr := a }
  | .curAddr a => s.modHandle fun h => { h with curAddr := a }
  | .curFromPerm =>
    let a := readPermAddr s
    a.2.modHandle fun h => { h with curAddr := a.1 }
  | .filterType w => s.modHandle fun h => { h with mcFilterType := w }
  | .apiVersion w => s.modHandle fun h => { h with apiVersion := w }
  | .rssKey bs => s.modHandle fun h => { h with rssKey := bs }
  | .reta k e => s.modHandle fun h => { h with reta := h.reta.set k e }
  | .linkUp b => s.modHandle fun h => { h with linkUp := b }
  | .linkSpeed sp => s.modHandle fun h => { h with linkSpeed := sp }
  | .speedAny =>
    let d := drawSpeed s
    d.2.modHandle fun h => { h with linkSpeed := d.1 }
  | .mbxTimeout w => s.modHandle fun h => { h with mbxTimeout := w }
  | .stopped b => s.modHandle fun h => { h with adapterStopped := b }
  | .fsm x => s.modHandle fun h => { h with fsm := x }
  | .macValid b => s.modHandle fun h => { h with macValid := b }
  | .ends status what => finish ⟨status, what.output s.h⟩ s

/-- A test whose outcome is the updates `ps`: they are the next steps, in order. -/
def plan (ps : List Prim) (f : Frame) (s : State) : State := s.setFrame { f with todo := ps }

/-- The first of the updates `ps` happens now, the others are the next steps. -/
def perform : List Prim → Frame → State → State
  | [], f, s => plan [] f s
  | p :: ps, f, s => runPrim p (plan ps f s)

/-- One pending update of the running command, if there is one. -/
def runNext (s : State) : State :=
  match s.seq with
  | .busy f => if f.todo = [] then s else perform f.todo f s
  | .idle => s

/-- The next `k` pending updates. -/
def runPending : Nat → State → State
  | 0, s => s
  | k + 1, s => runPending k (runNext s)

/-- The state after every pending update of the running command: what its next steps lead to, whatever
the other agents do meanwhile to their own part of the state. -/
def settled (s : State) : State :=
  match s.seq with
  | .busy f => runPending f.todo.length s
  | .idle => s

/-- `return v` (R262). -/
def returnOk (out : Returned) : Prim := .ends .ok out

/-- `raise E`: status `E`, no outputs (R262). -/
def raise (e : ErrorKind) : Prim := .ends (.error e) (.value .none)

/-! ## How a command is read -/

/-- The outcome type of the machine's meanings. -/
abbrev Outcome := Host.Outcome State Fault Refusal

/-- The frame of a command at its first point. -/
def Frame.start (cmd : Instr) (point : Point) (req : Option Instr) (reqLen : Nat) : Frame :=
  { cmd := cmd
    point := point
    n := none
    i := 0
    v := 0#32
    req := req
    req0 := 0#32
    reqLen := reqLen
    rspLen := replyLen cmd
    todo := [] }

/-- How every command is read: while the sequencer is `Idle` the command is offered and `offer` says
what acceptance does; while it is busy with this very command, the command's next primitive runs, a
pending update first (R35); while it is busy with another, the command is refused (R83). -/
def command (i : Instr) (offer : State → State) (body : Frame → State → Outcome) (s : State) :
    Outcome :=
  match s.seq with
  | .idle => .next (offer s)
  | .busy f =>
    if f.cmd = i then
      if f.todo = [] then body f s else .next (perform f.todo f s)
    else .next (refuse s)

end Sys2Proof.Machine
end

