-- ==== Sys2Proof/Machine/Transport.lean ====
section
/-!
DEFINITION. The Mailbox Transport: WRITE_POSTED, READ_POSTED, CHECK_FOR_RST, EXCHANGE (40_transport.md).

`transportStep` is the pseudocode of AcquireLock, PollStatus, WRITE_POSTED and READ_POSTED, one point at
a time. Every command that exchanges messages runs it; what follows a finished contract, and the clean-up
of a failed one, depend on the command the frame holds.
-/

namespace Sys2Proof.Machine

/-! ## Buffers -/

/-- Word `i` of the message WRITE_POSTED sends: the operand of a WRITE_POSTED command, else `MSG[i]`
(R143). -/
def sourceWord (f : Frame) (i : Nat) (s : State) : Word :=
  match f.cmd with
  | .writePosted msg _ _ => msg.getD i 0#32
  | _ => s.msg.getD i 0#32

/-- `buf[0..len-1] <- any()`, the clean-up of a READ_POSTED that raised, one word a step (R144, U4). -/
def scrambleBuffer (f : Frame) : List Prim := (List.range f.rspLen).map .anyBuf

/-- `MSG[0..len-1] <- any()` after a READ_POSTED that raised, one word a step, where `MSG` is not the buffer
it read into: "`MSG` is `any()` wherever READ_POSTED raised" (R36, R263). -/
def scrambleMsg (f : Frame) : List Prim :=
  match f.cmd with
  | .readPosted _ _ => (List.range f.rspLen).map .anyMsg
  | _ => []

/-! ## The end of a contract -/

/-- What RESET does when a transport contract raises: `H.mac_valid <- 0; H.fsm <- Ready` (R214). Other
commands write no handle register (R172). -/
def transportCleanUp (f : Frame) : List Prim :=
  if f.cmd = .reset then [.macValid false, .fsm .ready] else []

/-- The steps that follow when a transport contract raises `e`: READ_POSTED leaves its buffer
and `MSG` unspecified, then the command's own clean-up runs and the error is returned (R144, R172, R214, R262, R263). -/
def raiseSteps (f : Frame) (use : Use) (e : ErrorKind) : List Prim :=
  match use with
  | .post => transportCleanUp f ++ [raise e]
  | .read => scrambleBuffer f ++ scrambleMsg f ++ transportCleanUp f ++ [raise e]

/-- A transport contract raises `e`. -/
def transportRaise (f : Frame) (use : Use) (e : ErrorKind) (s : State) : State :=
  plan (raiseSteps f use e) f s

/-- WRITE_POSTED returned `OK`: the command ends, RESET goes on to wait for the reply (R214), and every
other command goes on to READ_POSTED (R146). -/
def afterPost (f : Frame) (s : State) : State :=
  match f.cmd with
  | .writePosted _ _ _ => plan [returnOk (.value .none)] f s
  | .reset => s.goto f .await
  | _ => s.goto f .readStart

/-- READ_POSTED returned `OK`: the transport commands end, an operation goes on to its decoder (R144,
R146). -/
def afterRead (f : Frame) (s : State) : State :=
  match f.cmd with
  | .readPosted len _ => plan [returnOk (.value (.words (s.hostBuf.take len)))] f s
  | .exchange _ _ => plan [returnOk (.value .none)] f s
  | _ => s.goto f .decode

/-- AcquireLock returned: the copy begins at word 0 (R143, R144). -/
def afterLock (f : Frame) (use : Use) (s : State) : State :=
  match use with
  | .post => s.setFrame { f with point := .copyOut, i := 0 }
  | .read => s.setFrame { f with point := .copyIn, i := 0 }

/-! ## The polls -/

/-- The end of a poll iteration that saw nothing: `if n != INF: n <- n - 1; if n = 0: raise
TransportTimeout`, then the delay (R141, R142). -/
def countDown (f : Frame) (use : Use) (again : Point) (s : State) : State :=
  match f.n with
  | none => s.goto f again
  | some k =>
    if k - 1 = 0 then transportRaise f use .transportTimeout s
    else s.setFrame { f with n := some (k - 1), point := again }

/-- The tests of one sample of `MBX`, in the order of R261: removed, reset, the awaited bit, the count.
DEDUCED: a raise writes no `MBX`, as the pseudocode of R141 has it, so that `VFU` stays 1 where the device has
granted the lock before the raise (ResetInProgress on a sample that shows the lock too, DeviceRemoved after a
drain that granted it), against R141's remark that it is then 0 (assumption 23). -/
def pollTests (f : Frame) (use : Use) (awaited : Bool) (onSuccess : State → State) (again : Point)
    (s : State) : State :=
  if s.h.removed then transportRaise f use .deviceRemoved s
  else if showsReset s.cfg.window f.v then transportRaise f use .resetInProgress s
  else if awaited then onSuccess s
  else countDown f use again s

/-- Starts a poll: `n <- Budget(H.mbx_timeout)` (R140). -/
def startPoll (f : Frame) (first : Point) (s : State) : State :=
  s.setFrame { f with n := budget s.cfg.unarmedBudget s.h.mbxTimeout, point := first }

/-- A register read whose value goes to the local `v` (R35, R61). -/
def readTo (f : Frame) (r : Reg) (next : Point) (s : State) : State :=
  let p := regRead r s
  p.2.setFrame { f with v := p.1, point := next }

/-! ## The request in the staging buffer -/

/-- `MSG[i] <- w` for the words `ws` from word `i` on. -/
def writesFrom : Nat → List Word → List Prim
  | _, [] => []
  | i, w :: ws => .msg i w :: writesFrom (i + 1) ws

/-- The writes of `MSG` by which a request is built, in the order of its command's pseudocode: word 0
first, but last in SET_MAC (R173, R174, R176 to R180, R214). -/
def msgWrites (r : Instr) (ws : List Word) : List Prim :=
  match r with
  | .setMacReq _ => writesFrom 1 (ws.drop 1) ++ writesFrom 0 (ws.take 1)
  | _ => writesFrom 0 ws

/-- The encoder writes a request's words to `MSG[0..len-1]`, one a step, and keeps word 0 as `req0`;
WRITE_POSTED is next (R36, R102). -/
def stageRequest (r : Instr) (f : Frame) (s : State) : State :=
  let ws := encode s.cfg.codes r
  perform (msgWrites r ws)
    { f with point := .postStart, req0 := ws.headD 0#32, reqLen := ws.length } s

/-! ## The transport's pseudocode -/

/-- A removal test of a contract: DeviceRemoved, or the pseudocode goes on (R143, R144). -/
def removalTest (f : Frame) (use : Use) (goOn : State → State) (s : State) : State :=
  if s.h.removed then transportRaise f use .deviceRemoved s else goOn s

/-- One step of a command at a point of the transport; a point of another kind is no position of its
pseudocode. -/
def transportStep (f : Frame) (s : State) : Outcome :=
  match f.point with
  | .encode =>
    match f.req with
    | some r => .next (stageRequest r f s)
    | none => .fault .badPoint
  | .postStart => .next (removalTest f .post (·.goto f (.lockBudget .post)) s)
  | .lockBudget use => .next (startPoll f (.lockWrite use) s)
  | .lockWrite use => .next ((regWrite .mbx (bitMask s.cfg.window.mbxVfu) s).goto f (.lockRead use))
  | .lockRead use => .next (readTo f .mbx (.lockTest use) s)
  | .lockTest use =>
    .next (pollTests f use (showsLock s.cfg.window f.v) (afterLock f use) (.lockDelay use) s)
  | .lockDelay use => .next ((delay .mbxPoll s).goto f (.lockWrite use))
  | .copyOut =>
    .next ((regWrite (.mbmem f.i) (sourceWord f f.i s) s).setFrame
      { f with i := f.i + 1, point := if f.i + 1 < f.reqLen then .copyOut else .postReq })
  | .postReq => .next ((regWrite .mbx (bitMask s.cfg.window.mbxReq) s).goto f .postFlush)
  | .postFlush => .next ((flush s).goto f .postDone)
  | .postDone => .next (removalTest f .post (afterPost f) s)
  | .readStart => .next (removalTest f .read (·.goto f .pollBudget) s)
  | .pollBudget => .next (startPoll f .pollRead s)
  | .pollRead => .next (readTo f .mbx .pollTest s)
  | .pollTest =>
    .next (pollTests f .read (showsReply s.cfg.window f.v) (·.goto f (.lockBudget .read)) .pollDelay s)
  | .pollDelay => .next ((delay .mbxPoll s).goto f .pollRead)
  | .copyIn => .next (readTo f (.mbmem f.i) .copyStore s)
  | .copyStore => .next ((storeWord f.cmd f.i f.v s).goto f .copyInTest)
  | .copyInTest =>
    .next (removalTest f .read (·.setFrame
      { f with i := f.i + 1, point := if f.i + 1 < f.rspLen then .copyIn else .ackWrite }) s)
  | .ackWrite => .next ((regWrite .mbx (bitMask s.cfg.window.mbxAck) s).goto f .ackFlush)
  | .ackFlush => .next ((flush s).goto f .readDone)
  | .readDone => .next (removalTest f .read (afterRead f) s)
  | _ => .fault .badPoint

/-! ## The commands -/

/-- WRITE_POSTED (R143), admitted in every control state with `mailbox_id = 0` and `1 <= len <= MBX_SIZE`
(R147). -/
def execWritePosted (msg : List Word) (len mailboxId : Nat) (s : State) : Outcome :=
  command (.writePosted msg len mailboxId)
    (fun s =>
      if (Instr.writePosted msg len mailboxId).wellFormed s.cfg then
        accept (Frame.start (.writePosted msg len mailboxId) .postStart none len) s
      else refuse s)
    transportStep s

/-- READ_POSTED (R144), admitted like WRITE_POSTED (R147). -/
def execReadPosted (len mailboxId : Nat) (s : State) : Outcome :=
  command (.readPosted len mailboxId)
    (fun s =>
      if (Instr.readPosted len mailboxId).wellFormed s.cfg then
        accept (Frame.start (.readPosted len mailboxId) .readStart none 0) s
      else refuse s)
    transportStep s

/-- The steps of CHECK_FOR_RST: one sample of `MBX`, and `Asserted` or `Cleared` (R145). -/
def checkForRstStep (f : Frame) (s : State) : Outcome :=
  match f.point with
  | .indicatorRead => .next (readTo f .mbx .indicatorTest s)
  | .indicatorTest => .next (perform [returnOk (.value (.indicator (showsReset s.cfg.window f.v)))] f s)
  | _ => .fault .badPoint

/-- CHECK_FOR_RST (R145), admitted with `mailbox_id = 0` (R147). -/
def execCheckForRst (mailboxId : Nat) (s : State) : Outcome :=
  command (.checkForRst mailboxId)
    (fun s =>
      if (Instr.checkForRst mailboxId).wellFormed s.cfg then
        accept (Frame.start (.checkForRst mailboxId) .indicatorRead none 0) s
      else refuse s)
    checkForRstStep s

/-- EXCHANGE (R146): WRITE_POSTED of `MSG[0..req_len-1]`, then READ_POSTED of `rsp_len` words into
`MSG`. The Host cannot issue it (R129); a move of the Host that tries is refused before it gets here. -/
def execExchange (reqLen rspLen : Nat) (s : State) : Outcome :=
  command (.exchange reqLen rspLen)
    (fun s =>
      if (Instr.exchange reqLen rspLen).wellFormed s.cfg then
        accept (Frame.start (.exchange reqLen rspLen) .postStart none reqLen) s
      else refuse s)
    transportStep s

end Sys2Proof.Machine
end

