-- ==== Sys2Proof/Machine/Control.lean ====
section
/-!
DEFINITION. The Hardware Control State Machine: STOP, RESET, START, INIT (42_control_fsm.md), and the
pseudo-command READ_HANDLE (R130).
-/

namespace Sys2Proof.Machine

/-! ## STOP (R213) -/

/-- STOP's loop: queue `q` is next, or the interrupt mask when no queue is left. -/
def stopNext (q : Nat) (s : State) : Point := if q < s.cfg.numQueues then .txRead else .maskWrite

/-- The steps of STOP: transmit before receive in each queue, then the mask, the flush, and the two
handle writes (R213). STOP never fails. -/
def stopStep (f : Frame) (s : State) : Outcome :=
  match f.point with
  | .txRead => .next (readTo f (.txdctl f.i) .txWrite s)
  | .txWrite => .next ((regWrite (.txdctl f.i) (clearEnable s.cfg.window f.v) s).goto f .rxRead)
  | .rxRead => .next (readTo f (.rxdctl f.i) .rxWrite s)
  | .rxWrite =>
    .next ((regWrite (.rxdctl f.i) (clearEnable s.cfg.window f.v) s).setFrame
      { f with i := f.i + 1, point := stopNext (f.i + 1) s })
  | .maskWrite => .next ((regWrite .intMask 0#32 s).goto f .stopFlush)
  | .stopFlush => .next ((flush s).goto f .stopDone)
  | .stopDone =>
    .next (perform [.stopped true, .fsm .stopped, returnOk (.value .none)] f s)
  | _ => .fault .badPoint

/-- STOP, admitted in every control state (R212, R213). -/
def execStop (s : State) : Outcome :=
  command .stop (fun s => accept (Frame.start .stop (stopNext 0 s) none 0) s) stopStep s

/-! ## RESET (R214) -/

/-- RESET's interpretation of the reply, the decoder of R182: a positively classified reply carries the
permanent address and the filter type; every other reply is `Bad` (R182, R214). -/
def decodeReset (f : Frame) (ws : List Word) (s : State) : State :=
  match classify s.cfg.codes (word0 ws) (mk0 s.cfg.codes s.cfg.codes.opReset 0#32)
      s.cfg.codes.flagAck s.cfg.codes.flagNack with
  | .positive =>
    plan [.permAddr (unpack48 (ws.getD 1 0#32) (ws.getD 2 0#32)), .filterType (ws.getD 3 0#32),
      .macValid true, .fsm .ready, returnOk (.value .none)] f s
  | .negative | .mismatch =>
    plan [.macValid false, .fsm .ready, raise .invalidMacAddr] f s

/-- RESET ends in its indicator loop: `H.mac_valid <- 0; H.fsm <- Stopped; raise e` (R214). -/
def resetFails (f : Frame) (e : ErrorKind) (s : State) : State :=
  plan [.macValid false, .fsm .stopped, raise e] f s

/-- The tests of one sample of the reset indicator (R214). -/
def resetTests (f : Frame) (s : State) : State :=
  if s.h.removed then resetFails f .deviceRemoved s
  else if !showsReset s.cfg.window f.v then s.goto f .arm
  else
    match f.n with
    | none => s.goto f .rstDelay
    | some k =>
      if k - 1 = 0 then resetFails f .resetTimeout s
      else s.setFrame { f with n := some (k - 1), point := .rstDelay }

/-- The steps of RESET (R214); the transport's points are those of WRITE_POSTED and READ_POSTED. -/
def resetStep (f : Frame) (s : State) : Outcome :=
  match f.point with
  | .ctrlWrite => .next ((regWrite .ctrl (bitMask s.cfg.window.ctrlRst) s).goto f .ctrlFlush)
  | .ctrlFlush => .next ((flush s).goto f .settle)
  | .settle =>
    .next ((delay .resetSettle s).setFrame { f with n := some s.cfg.rstPollMax, point := .rstSample })
  | .rstSample => .next (readTo f .mbx .rstTest s)
  | .rstTest => .next (resetTests f s)
  | .rstDelay => .next ((delay .rstPoll s).goto f .rstSample)
  | .arm =>
    .next (perform [.mbxTimeout s.cfg.mbxInitTimeout, .apiVersion s.cfg.apiBase]
      { f with point := .encode } s)
  | .await => .next (perform [.fsm .awaitingPermAddr] { f with point := .replySettle } s)
  | .replySettle => .next ((delay .resetReplySettle s).goto f .readStart)
  | .decode => .next (decodeReset f s.msg s)
  | _ => transportStep f s

/-- RESET, admitted only in `Stopped` with the stopped flag set; the transition to `Resetting` is its
first step (R211, R212, R214). -/
def execReset (s : State) : Outcome :=
  command .reset
    (fun s =>
      if s.h.fsm = .stopped ∧ s.h.adapterStopped = true then
        accept { Frame.start .reset .ctrlWrite (some .resetReq) 0 with todo := [.fsm .resetting] } s
      else refuse s)
    resetStep s

/-! ## START and INIT (R215, R216) -/

/-- The steps of START: the flag, and the return (R215). -/
def startStep (f : Frame) (s : State) : Outcome :=
  match f.point with
  | .run => .next (perform [.stopped false, returnOk (.value .none)] f s)
  | _ => .fault .badPoint

/-- START, admitted in every control state (R215). -/
def execStart (s : State) : Outcome :=
  command .start (accept (Frame.start .start .run none 0)) startStep s

/-- The steps of INIT: the stopped flag is cleared and the permanent address copied, whatever it is worth
(R216, R218). -/
def initStep (f : Frame) (s : State) : Outcome :=
  match f.point with
  | .run =>
    .next (perform [.stopped false, .curFromPerm, returnOk (.value .none)] f s)
  | _ => .fault .badPoint

/-- INIT, admitted in every control state (R216). -/
def execInit (s : State) : Outcome :=
  command .init (accept (Frame.start .init .run none 0)) initStep s

/-! ## READ_HANDLE (R130) -/

/-- The value of a handle register other than `H.perm_addr` (R130). -/
def handleValue (h : Handle) : HandleField → HandleValue
  | .permAddr => .address h.permAddr
  | .curAddr => .address h.curAddr
  | .mcFilterType => .word h.mcFilterType
  | .apiVersion => .word h.apiVersion
  | .rssKey => .bytes h.rssKey
  | .reta => .table h.reta
  | .linkUp => .flag h.linkUp
  | .linkSpeed => .speed h.linkSpeed
  | .mbxTimeout => .word h.mbxTimeout
  | .adapterStopped => .flag h.adapterStopped
  | .fsm => .control h.fsm
  | .macValid => .flag h.macValid
  | .removed => .flag h.removed

/-- The one step of READ_HANDLE; `H.perm_addr` is `any()` while `H.mac_valid = 0` (R21, R130). -/
def readHandleStep (field : HandleField) (f : Frame) (s : State) : Outcome :=
  match f.point with
  | .run =>
    match field with
    | .permAddr =>
      let p := readPermAddr s
      .next (perform [returnOk (.value (.handle (.address p.1)))] f p.2)
    | _ => .next (perform [returnOk (.value (.handle (handleValue s.h field)))] f s)
  | _ => .fault .badPoint

/-- READ_HANDLE, admitted in every control state (R130, R212). -/
def execReadHandle (field : HandleField) (s : State) : Outcome :=
  command (.readHandle field) (accept (Frame.start (.readHandle field) .run none 0))
    (readHandleStep field) s

end Sys2Proof.Machine
end

