-- ==== Sys2Proof/Machine/Protocol.lean ====
section
/-!
DEFINITION. The Protocol Encoder/Decoder: the mailbox-mediated operations (41_protocol.md).

An operation is accepted only in `Ready` (R170), builds its request in `MSG`, runs the transport's
EXCHANGE, and interprets the reply. The interpretation of each operation is a definition of its own that
takes the reply's words.
-/

namespace Sys2Proof.Machine

/-! ## Admission -/

/-- Admission of a mailbox-mediated operation: `H.fsm = Ready`, else `refuse` (R170, R212). -/
def admitReady (f : Frame) (s : State) : State :=
  if s.h.fsm = .ready then accept f s else refuse s

/-- `rss_query_supported()` (R181). -/
def rssQuerySupported (s : State) : Bool :=
  decide (s.h.apiVersion ∈ s.cfg.apiRssSet) && decide (s.cfg.gen = .g82599)

/-- Admission of the two RSS queries: NotSupported is decided first, in every state (R170, R178). -/
def admitQuery (f : Frame) (s : State) : State :=
  if rssQuerySupported s then admitReady f s else finish ⟨.error .notSupported, .none⟩ s

/-- An operation's own steps: the interpretation of the staged reply at `decode`, the transport at every
other point. -/
def operation (interpret : Frame → List Word → State → State) (f : Frame) (s : State) : Outcome :=
  match f.point with
  | .decode => .next (interpret f s.msg s)
  | _ => transportStep f s

/-! ## SET_MAC (R173) -/

/-- SET_MAC's interpretation of a reply; a NACK falls back to the permanent address (R173, R183). -/
def decodeSetMac (addr : MacAddr) (f : Frame) (ws : List Word) (s : State) : State :=
  match classify s.cfg.codes (word0 ws) f.req0 s.cfg.codes.flagAck s.cfg.codes.flagNack with
  | .negative => plan [.curFromPerm, raise .nacked] f s
  | .positive => plan [.curAddr addr, returnOk (.value .none)] f s
  | .mismatch => plan [raise .protocolMismatch] f s

/-- SET_MAC (R173). -/
def execSetMac (addr : MacAddr) (s : State) : Outcome :=
  command (.setMac addr)
    (admitReady (Frame.start (.setMac addr) .encode (some (.setMacReq addr)) 0))
    (operation (decodeSetMac addr)) s

/-! ## SET_VLAN (R174) -/

/-- A reply that is read and not inspected: the command returns `OK` (R111, R113). -/
def decodeUninspected (f : Frame) (_ : List Word) (s : State) : State :=
  plan [returnOk (.value .none)] f s

/-- SET_VLAN (R174). -/
def execSetVlan (vlanId : BitVec 12) (vlanOn : Bool) (s : State) : Outcome :=
  command (.setVlan vlanId vlanOn)
    (admitReady (Frame.start (.setVlan vlanId vlanOn) .encode (some (.setVlanReq vlanId vlanOn)) 0))
    (operation decodeUninspected) s

/-! ## MTA_VECTOR (R175) -/

/-- The diagnostic of one hash: an event when the filter type is invalid (R175, R271). -/
def diagnose (filterType : Word) : List Prim :=
  if filterTypeValid filterType then [] else [.emit (.badFilterType filterType)]

/-- The steps of MTA_VECTOR: the diagnostic, if there is one, and the return (R175). -/
def mtaVectorStep (addr : MacAddr) (filterType : Word) (f : Frame) (s : State) : Outcome :=
  match f.point with
  | .run =>
    .next (perform (diagnose filterType ++ [returnOk (.value (.vector (mtaWindow addr filterType)))]) f s)
  | _ => .fault .badPoint

/-- MTA_VECTOR, admitted in every control state (R175). -/
def execMtaVector (addr : MacAddr) (filterType : Word) (s : State) : Outcome :=
  command (.mtaVector addr filterType)
    (accept (Frame.start (.mtaVector addr filterType) .run none 0))
    (mtaVectorStep addr filterType) s

/-! ## UPDATE_MC (R176) -/

/-- The hash loop of UPDATE_MC: for each of the first `MC_MAX` addresses, in list order, the vector of
MTA_VECTOR and its diagnostic (R176). -/
def hashSteps (list : List MacAddr) (filterType : Word) : List Prim :=
  (list.take Config.mcMax).flatMap fun a => diagnose filterType ++ [.hash (mtaWindow a filterType)]

/-- The steps of UPDATE_MC. -/
def updateMcStep (list : List MacAddr) (f : Frame) (s : State) : Outcome :=
  match f.point with
  | .hash => .next (plan (hashSteps list s.h.mcFilterType) { f with point := .encode } s)
  | _ => operation decodeUninspected f s

/-- UPDATE_MC (R176). -/
def execUpdateMc (list : List MacAddr) (s : State) : Outcome :=
  command (.updateMc list) (admitReady (Frame.start (.updateMc list) .hash (some (.setMulticastReq [])) 0))
    (updateMcStep list) s

/-! ## SET_MACVLAN (R177) -/

/-- SET_MACVLAN's interpretation of a reply; the index must be echoed (R177). -/
def decodeSetMacvlan (f : Frame) (ws : List Word) (s : State) : State :=
  match classify s.cfg.codes (word0 ws) f.req0 s.cfg.codes.flagAck s.cfg.codes.flagNack with
  | .negative => plan [raise .nacked] f s
  | .positive => plan [returnOk (.value .none)] f s
  | .mismatch => plan [raise .protocolMismatch] f s

/-- The request SET_MACVLAN sends: with index 0 the address is ignored (R114, R177). -/
def macvlanRequest (index : Word) (addr : MacAddr) : Instr :=
  .setMacvlanReq index (if index = 0#32 then MacAddr.zero else addr)

/-- SET_MACVLAN (R177). An index that does not fit in the info field is refused (R102, R260, U14). -/
def execSetMacvlan (index : Word) (addr : MacAddr) (s : State) : Outcome :=
  command (.setMacvlan index addr)
    (fun s =>
      if (Instr.setMacvlan index addr).wellFormed s.cfg then
        admitReady (Frame.start (.setMacvlan index addr) .encode (some (macvlanRequest index addr)) 0) s
      else refuse s)
    (operation decodeSetMacvlan) s

/-! ## GET_RETA (R178) -/

/-- `H.reta[k] <- ` the entries, from entry `k` on. -/
def retaWrites : Nat → List (BitVec 2) → List Prim
  | _, [] => []
  | k, e :: es => .reta k e :: retaWrites (k + 1) es

/-- GET_RETA's interpretation of a reply: on success the 128 entries are written one a step (R178). -/
def decodeGetReta (f : Frame) (ws : List Word) (s : State) : State :=
  match classify s.cfg.codes (word0 ws) f.req0 s.cfg.codes.flagSuccess s.cfg.codes.flagFailure with
  | .negative => plan [raise .permissionDenied] f s
  | .positive =>
    plan (retaWrites 0 (retaOf (payloadWords Config.retaWords ws)) ++ [returnOk .reta]) f s
  | .mismatch => plan [raise .protocolMismatch] f s

/-- GET_RETA (R178). -/
def execGetReta (s : State) : Outcome :=
  command .getReta (admitQuery (Frame.start .getReta .encode (some .getRetaReq) 0))
    (operation decodeGetReta) s

/-! ## GET_RSS_KEY (R179) -/

/-- GET_RSS_KEY's interpretation of a reply (R179). -/
def decodeGetRssKey (f : Frame) (ws : List Word) (s : State) : State :=
  match classify s.cfg.codes (word0 ws) f.req0 s.cfg.codes.flagSuccess s.cfg.codes.flagFailure with
  | .negative => plan [raise .permissionDenied] f s
  | .positive =>
    plan [.rssKey (keyBytes (payloadWords Config.rssKeyWords ws)), returnOk .rssKey] f s
  | .mismatch => plan [raise .protocolMismatch] f s

/-- GET_RSS_KEY (R179). -/
def execGetRssKey (s : State) : Outcome :=
  command .getRssKey (admitQuery (Frame.start .getRssKey .encode (some .getRssKeyReq) 0))
    (operation decodeGetRssKey) s

/-! ## NEGOTIATE_API (R180) -/

/-- NEGOTIATE_API's interpretation of a reply: the version stored is the reply's word 1 (R180). -/
def decodeNegotiate (f : Frame) (ws : List Word) (s : State) : State :=
  match classify s.cfg.codes (word0 ws) f.req0 s.cfg.codes.flagAck s.cfg.codes.flagNack with
  | .negative => plan [raise .nacked] f s
  | .positive => plan [.apiVersion (ws.getD 1 0#32), returnOk (.value .none)] f s
  | .mismatch => plan [raise .protocolMismatch] f s

/-- NEGOTIATE_API (R180). -/
def execNegotiateApi (version : Word) (s : State) : Outcome :=
  command (.negotiateApi version)
    (admitReady (Frame.start (.negotiateApi version) .encode (some (.apiNegotiateReq version)) 0))
    (operation decodeNegotiate) s

end Sys2Proof.Machine
end

