-- ==== Sys2Proof/Machine/Agents.lean ====
section
/-!
DEFINITION. The other agents' steps, the schedule, and how the block finds the instruction it executes
next.

The PF and the device environment are unconstrained (R80, D35): which of their steps happen, and when, is
the state's schedule, and every statement holds for every schedule. A scheduled step that is not enabled
is not taken.
-/

namespace Sys2Proof.Machine

/-! ## The PF (R80) -/

/-- The words of `MBMEM`. -/
def mailboxWords (p : Config.Params) (d : Device) : List Word :=
  (List.range p.mbxSize).map fun i => d.mbmemWord p.window i

/-- The PF's step is enabled (R80). -/
def pfEnabled (c : Config.Params) (p : PfStep) (d : Device) : Bool :=
  match p with
  | .take => d.reqPending
  | .takeAck => d.ackPending
  | .lock => !d.vfu
  | .write i _ => d.pfu && decide (i < c.mbxSize)
  | .post | .unlock => d.pfu
  | .rst _ | .link _ => true

/-- What an enabled PF step does (R80). -/
def pfApply (p : PfStep) (s : State) : State :=
  match p with
  | .take =>
    { s.modDev fun d => { d with reqPending := false } with pfSeen := mailboxWords s.cfg s.dev }
  | .takeAck => s.modDev fun d => { d with ackPending := false }
  | .lock => s.modDev fun d => { d with pfu := true }
  | .write i x => s.modDev fun d => d.setMbmemWord s.cfg.window i x
  | .post => s.modDev fun d => { d with pfu := false, pfsts := true }
  | .unlock => s.modDev fun d => { d with pfu := false }
  | .rst b => s.modDev fun d => { d with rstip := b }
  | .link x => s.modDev fun d => { d with links := x }

/-- A scheduled PF step (R80). -/
def pfMove (p : PfStep) (s : State) : State := if pfEnabled s.cfg p s.dev then pfApply p s else s

/-! ## The device environment (R79) -/

/-- A scheduled step of the device environment: `Dev-drain` or `Dev-remove` (R79). -/
def devMove (d : DevStep) (s : State) : State :=
  match d with
  | .drain => drainOne s
  | .remove => s.modDev fun d => { d with removed := true }

/-! ## The Host (R83) -/

/-- The Host may issue every command but EXCHANGE, and no message (R128, R129). -/
def hostIssuable (i : Instr) : Bool :=
  match i with
  | .exchange _ _ => false
  | i => decide (i.group = .command)

/-- A command issued while `seq = Idle` is offered to the block; any other issue is refused (R83,
R260). -/
def issueAdmitted (i : Instr) (s : State) : Bool := hostIssuable i && decide (s.seq = .idle)

/-- The Host receives the result of the last command (R83). -/
def hostReceive (s : State) : State := { s with result := none }

/-! ## The schedule -/

/-- The next move and the state without it: the head of the schedule, or the block's when the schedule
is empty (R6, assumption 10). -/
def nextMove (s : State) : Move × State :=
  match s.sched with
  | [] => (.vf, s)
  | m :: rest => (m, { s with sched := rest })

/-! ## The block's next instruction (R35, R77) -/

/-- The instruction the block executes next. While a command runs it is that command; at the encode point
it is the request message the command sends; at the decode point it is the reply message the decoder
finds in `MSG`, if the words there are a reply of the opcode table. A pending update is the command's. -/
def currentInstr (s : State) : Option Instr :=
  match s.seq with
  | .idle => none
  | .busy f =>
    if f.todo = [] then
      match f.point with
      | .encode => some (f.req.getD f.cmd)
      | .decode =>
        match decode s.cfg.codes s.msg with
        | .ok (i, _) => if i.group = .reply then some i else some f.cmd
        | .error _ => some f.cmd
      | _ => some f.cmd
    else some f.cmd

/-! ## Placing a message where the block executes it next -/

/-- An address whose hash window of type 0 is `v` (R175). -/
def addrOfVector (v : BitVec 12) : MacAddr :=
  { MacAddr.zero with
    a4 := (v.extractLsb' 0 4).setWidth 8 <<< 4
    a5 := v.extractLsb' 4 8 }

/-- The command that sends a request, or that waits for a reply (the "sent_by" and "semantics_rule"
columns of the opcode table). -/
def commandOf (i : Instr) : Instr :=
  match i with
  | .resetReq | .resetAck _ _ _ => .reset
  | .setMacReq addr => .setMac addr
  | .setMacAck _ | .setMacNack _ => .setMac MacAddr.zero
  | .setVlanReq vlanId vlanOn => .setVlan vlanId vlanOn
  | .setVlanAck _ vlanOn | .setVlanNack _ vlanOn => .setVlan 0#12 vlanOn
  | .setMulticastReq vectors => .updateMc (vectors.map addrOfVector)
  | .setMulticastAck _ count | .setMulticastNack _ count =>
    .updateMc (List.replicate count.toNat MacAddr.zero)
  | .setMacvlanReq index addr => .setMacvlan index addr
  | .setMacvlanAck _ index | .setMacvlanNack _ index => .setMacvlan index MacAddr.zero
  | .apiNegotiateReq version => .negotiateApi version
  | .apiNegotiateAck _ version => .negotiateApi version
  | .apiNegotiateNack _ => .negotiateApi 0#32
  | .getRetaReq | .getRetaSuccess _ _ | .getRetaFailure _ => .getReta
  | .getRssKeyReq | .getRssKeySuccess _ _ | .getRssKeyFailure _ => .getRssKey
  | i => i

/-- The request's word 0 that a reply's word 0 answers: the same word without its flags (R124). -/
def requestWordOf (c : Config.Codes) (w : Word) : Word := w &&& ~~~c.flagMask

/-- The frame of the command at the point where it executes the message `i` whose words are `ws`. -/
def messageFrame (c : Config.Codes) (i : Instr) (ws : List Word) : Frame :=
  match i.group with
  | .request => Frame.start (commandOf i) .encode (some i) 0
  | .reply | .command =>
    { Frame.start (commandOf i) .decode none 0 with req0 := requestWordOf c (word0 ws) }

/-- The message of a table word, placed where the next step executes it: a request as the message the
running command sends, a reply in `MSG` with its command at the decode point. Words that are no message
are placed in `MSG` before the decoder of a SET_MAC. The block's move comes first in the schedule. -/
def placeMessage (nbits w : Nat) (s : State) : State :=
  let ws := wordsOfNumber s.cfg.mbxSize nbits w
  let i := (decodeNumber s.cfg nbits w).getD (.setMacAck false)
  { s with
    msg := overlay ws s.msg
    seq := .busy (messageFrame s.cfg.codes i ws)
    sched := if s.sched = [] then [] else .vf :: s.sched }

end Sys2Proof.Machine
end

