-- ==== Sys2Proof/Machine/Link.lean ====
section
/-!
DEFINITION. The Link/Status Reader: CHECK_LINK (43_link_status.md).
-/

namespace Sys2Proof.Machine

/-- CHECK_LINK reports an error: link down, speed unknown, and the error as the status (R240). -/
def linkError (e : ErrorKind) : List Prim :=
  [.linkUp false, .linkSpeed .unknown, .ends (.error e) (.value (.link false .unknown))]

/-- The write of `H.link_speed` for a two-bit pattern; for the unmapped pattern it is `any()` (R241,
R242). -/
def decodeSpeed (w : Config.Window) (field : BitVec 2) : Prim :=
  if field = w.linksSpeed10G then .linkSpeed .speed10G
  else if field = w.linksSpeed1G then .linkSpeed .speed1G
  else if field = w.linksSpeed100M then .linkSpeed .speed100M
  else .speedAny

/-- CHECK_LINK decodes a sample of `LINKS` (R240). -/
def linkOk (w : Config.Window) (l : Word) : List Prim :=
  [.linkUp (showsLink w l), decodeSpeed w (speedField w l), returnOk .link]

/-- The steps of CHECK_LINK (R240). -/
def checkLinkStep (f : Frame) (s : State) : Outcome :=
  match f.point with
  | .indicatorRead => .next (readTo f .mbx .indicatorTest s)
  | .indicatorTest =>
    .next (if s.h.removed then plan (linkError .deviceRemoved) f s
      else if showsReset s.cfg.window f.v then plan (linkError .resetInProgress) f s
      else s.goto f .linksRead)
  | .linksRead => .next (readTo f .links .linksTest s)
  | .linksTest =>
    .next (plan (if s.h.removed then linkError .deviceRemoved else linkOk s.cfg.window f.v) f s)
  | _ => .fault .badPoint

/-- CHECK_LINK, admitted in every control state (R212, R240). -/
def execCheckLink (s : State) : Outcome :=
  command .checkLink (accept (Frame.start .checkLink .indicatorRead none 0)) checkLinkStep s

end Sys2Proof.Machine
end

