-- ==== Sys2Proof/Machine/Messages.lean ====
section
/-!
DEFINITION. The message rows of the opcode table, as the block's encoder and decoder.

A request row is the encoder's step: the words of the message are built in `MSG` by the command that
sends it. A reply row is the decoder's step: the message read into `MSG` is interpreted by the command
that waits for it. A row is executed at that point of a running command that has no update pending;
anywhere else the block gives a message no meaning and the run is marked refused (R126, R260, assumption
9).
-/

namespace Sys2Proof.Machine

/-! ## The encoder -/

/-- A request row: at the encode point of a command that sends this very message, the first of its words
is written, and the others are the command's next steps (R102). -/
def requestStep (r : Instr) (s : State) : Outcome :=
  match s.seq with
  | .idle => .next (refuse s)
  | .busy f =>
    if f.todo = [] ∧ f.point = .encode ∧ f.req = some r then .next (stageRequest r f s) else .next (refuse s)

/-- RESET.REQ (R106), sent by RESET (R214). -/
def execResetReq (s : State) : Outcome := requestStep .resetReq s

/-- SET_MAC.REQ (R108), sent by SET_MAC (R173). -/
def execSetMacReq (addr : MacAddr) (s : State) : Outcome := requestStep (.setMacReq addr) s

/-- SET_VLAN.REQ (R110), sent by SET_VLAN (R174). -/
def execSetVlanReq (vlanId : BitVec 12) (vlanOn : Bool) (s : State) : Outcome :=
  requestStep (.setVlanReq vlanId vlanOn) s

/-- SET_MULTICAST.REQ (R112), sent by UPDATE_MC (R176). -/
def execSetMulticastReq (vectors : List (BitVec 12)) (s : State) : Outcome :=
  requestStep (.setMulticastReq vectors) s

/-- SET_MACVLAN.REQ (R114), sent by SET_MACVLAN (R177). -/
def execSetMacvlanReq (index : Word) (addr : MacAddr) (s : State) : Outcome :=
  requestStep (.setMacvlanReq index addr) s

/-- API_NEGOTIATE.REQ (R120), sent by NEGOTIATE_API (R180). -/
def execApiNegotiateReq (version : Word) (s : State) : Outcome :=
  requestStep (.apiNegotiateReq version) s

/-- GET_RETA.REQ (R116), sent by GET_RETA (R178). -/
def execGetRetaReq (s : State) : Outcome := requestStep .getRetaReq s

/-- GET_RSS_KEY.REQ (R118), sent by GET_RSS_KEY (R179). -/
def execGetRssKeyReq (s : State) : Outcome := requestStep .getRssKeyReq s

/-! ## The decoder -/

/-- The running command interprets a reply's words (R124, R182). A command without a decoder stands at
no such point. -/
def interpretReply (f : Frame) (ws : List Word) (s : State) : Outcome :=
  match f.cmd with
  | .reset => .next (decodeReset f ws s)
  | .setMac addr => .next (decodeSetMac addr f ws s)
  | .setVlan _ _ => .next (decodeUninspected f ws s)
  | .updateMc _ => .next (decodeUninspected f ws s)
  | .setMacvlan _ _ => .next (decodeSetMacvlan f ws s)
  | .getReta => .next (decodeGetReta f ws s)
  | .getRssKey => .next (decodeGetRssKey f ws s)
  | .negotiateApi _ => .next (decodeNegotiate f ws s)
  | _ => .fault .badPoint

/-- The buffer a reply is interpreted in: the reply's words, then what `MSG` holds behind them (R36,
R122). -/
def replyBuffer (c : Config.Codes) (r : Instr) (msg : List Word) : List Word :=
  encode c r ++ msg.drop (encode c r).length

/-- A reply row: at the decode point of a command, that command interprets the message. -/
def replyStep (r : Instr) (s : State) : Outcome :=
  match s.seq with
  | .idle => .next (refuse s)
  | .busy f =>
    if f.todo = [] ∧ f.point = .decode then interpretReply f (replyBuffer s.cfg.codes r s.msg) s
    else .next (refuse s)

/-- RESET.ACK (R107). -/
def execResetAck (cts : Bool) (perm : MacAddr) (mcType : Word) (s : State) : Outcome :=
  replyStep (.resetAck cts perm mcType) s

/-- SET_MAC.ACK (R109). -/
def execSetMacAck (cts : Bool) (s : State) : Outcome := replyStep (.setMacAck cts) s

/-- SET_MAC.NACK (R109). -/
def execSetMacNack (cts : Bool) (s : State) : Outcome := replyStep (.setMacNack cts) s

/-- API_NEGOTIATE.ACK (R121). -/
def execApiNegotiateAck (cts : Bool) (version : Word) (s : State) : Outcome :=
  replyStep (.apiNegotiateAck cts version) s

/-- API_NEGOTIATE.NACK (R121). -/
def execApiNegotiateNack (cts : Bool) (s : State) : Outcome := replyStep (.apiNegotiateNack cts) s

/-- SET_MACVLAN.ACK (R115). -/
def execSetMacvlanAck (cts : Bool) (index : Word) (s : State) : Outcome :=
  replyStep (.setMacvlanAck cts index) s

/-- SET_MACVLAN.NACK (R115). -/
def execSetMacvlanNack (cts : Bool) (index : Word) (s : State) : Outcome :=
  replyStep (.setMacvlanNack cts index) s

/-- GET_RETA.SUCCESS (R117). -/
def execGetRetaSuccess (cts : Bool) (payload : List Word) (s : State) : Outcome :=
  replyStep (.getRetaSuccess cts payload) s

/-- GET_RETA.FAILURE (R117). -/
def execGetRetaFailure (cts : Bool) (s : State) : Outcome := replyStep (.getRetaFailure cts) s

/-- GET_RSS_KEY.SUCCESS (R119). -/
def execGetRssKeySuccess (cts : Bool) (payload : List Word) (s : State) : Outcome :=
  replyStep (.getRssKeySuccess cts payload) s

/-- GET_RSS_KEY.FAILURE (R119). -/
def execGetRssKeyFailure (cts : Bool) (s : State) : Outcome := replyStep (.getRssKeyFailure cts) s

/-- SET_VLAN.ACK (R111). -/
def execSetVlanAck (cts vlanOn : Bool) (s : State) : Outcome := replyStep (.setVlanAck cts vlanOn) s

/-- SET_VLAN.NACK (R111): a NACK that is not seen. -/
def execSetVlanNack (cts vlanOn : Bool) (s : State) : Outcome := replyStep (.setVlanNack cts vlanOn) s

/-- SET_MULTICAST.ACK (R113). -/
def execSetMulticastAck (cts : Bool) (count : BitVec 5) (s : State) : Outcome :=
  replyStep (.setMulticastAck cts count) s

/-- SET_MULTICAST.NACK (R113): a NACK that is not seen. -/
def execSetMulticastNack (cts : Bool) (count : BitVec 5) (s : State) : Outcome :=
  replyStep (.setMulticastNack cts count) s

end Sys2Proof.Machine
end

