-- ==== Sys2Proof/Machine/Dispatch.lean ====
section
/-!
DEFINITION. The meaning of every instruction: one arm per constructor of Instr.
-/

namespace Sys2Proof.Machine

open Sys2Proof

def exec (i : Instr) (s : State) : Host.Outcome State Fault Refusal :=
  match i with
  | .resetReq => Sys2Proof.Machine.execResetReq s
  | .setMacReq addr => Sys2Proof.Machine.execSetMacReq addr s
  | .setVlanReq vlanId vlanOn => Sys2Proof.Machine.execSetVlanReq vlanId vlanOn s
  | .setMulticastReq vectors => Sys2Proof.Machine.execSetMulticastReq vectors s
  | .setMacvlanReq index addr => Sys2Proof.Machine.execSetMacvlanReq index addr s
  | .apiNegotiateReq version => Sys2Proof.Machine.execApiNegotiateReq version s
  | .getRetaReq => Sys2Proof.Machine.execGetRetaReq s
  | .getRssKeyReq => Sys2Proof.Machine.execGetRssKeyReq s
  | .resetAck cts perm mcType => Sys2Proof.Machine.execResetAck cts perm mcType s
  | .setMacAck cts => Sys2Proof.Machine.execSetMacAck cts s
  | .setMacNack cts => Sys2Proof.Machine.execSetMacNack cts s
  | .apiNegotiateAck cts version => Sys2Proof.Machine.execApiNegotiateAck cts version s
  | .apiNegotiateNack cts => Sys2Proof.Machine.execApiNegotiateNack cts s
  | .setMacvlanAck cts index => Sys2Proof.Machine.execSetMacvlanAck cts index s
  | .setMacvlanNack cts index => Sys2Proof.Machine.execSetMacvlanNack cts index s
  | .getRetaSuccess cts payload => Sys2Proof.Machine.execGetRetaSuccess cts payload s
  | .getRetaFailure cts => Sys2Proof.Machine.execGetRetaFailure cts s
  | .getRssKeySuccess cts payload => Sys2Proof.Machine.execGetRssKeySuccess cts payload s
  | .getRssKeyFailure cts => Sys2Proof.Machine.execGetRssKeyFailure cts s
  | .setVlanAck cts vlanOn => Sys2Proof.Machine.execSetVlanAck cts vlanOn s
  | .setVlanNack cts vlanOn => Sys2Proof.Machine.execSetVlanNack cts vlanOn s
  | .setMulticastAck cts count => Sys2Proof.Machine.execSetMulticastAck cts count s
  | .setMulticastNack cts count => Sys2Proof.Machine.execSetMulticastNack cts count s
  | .stop => Sys2Proof.Machine.execStop s
  | .reset => Sys2Proof.Machine.execReset s
  | .start => Sys2Proof.Machine.execStart s
  | .init => Sys2Proof.Machine.execInit s
  | .setMac addr => Sys2Proof.Machine.execSetMac addr s
  | .setVlan vlanId vlanOn => Sys2Proof.Machine.execSetVlan vlanId vlanOn s
  | .mtaVector addr filterType => Sys2Proof.Machine.execMtaVector addr filterType s
  | .updateMc list => Sys2Proof.Machine.execUpdateMc list s
  | .setMacvlan index addr => Sys2Proof.Machine.execSetMacvlan index addr s
  | .getReta => Sys2Proof.Machine.execGetReta s
  | .getRssKey => Sys2Proof.Machine.execGetRssKey s
  | .negotiateApi version => Sys2Proof.Machine.execNegotiateApi version s
  | .checkLink => Sys2Proof.Machine.execCheckLink s
  | .writePosted msg len mailboxId => Sys2Proof.Machine.execWritePosted msg len mailboxId s
  | .readPosted len mailboxId => Sys2Proof.Machine.execReadPosted len mailboxId s
  | .checkForRst mailboxId => Sys2Proof.Machine.execCheckForRst mailboxId s
  | .readHandle field => Sys2Proof.Machine.execReadHandle field s
  | .exchange reqLen rspLen => Sys2Proof.Machine.execExchange reqLen rspLen s

end Sys2Proof.Machine
end

