-- ==== Sys2Proof/Machine/Step.lean ====
section
/-!
DEFINITION. One step of the machine: the next scheduled move of one of the four agents (R6, R73).
-/

namespace Sys2Proof.Machine

open Sys2Proof

/-- One step. A move of the block executes the block's next instruction, and leaves an idle block as it
is; a move of the Host, the PF or the device environment does what its rule says. -/
def step (s : State) : Host.Outcome State Fault Refusal :=
  let m := nextMove s
  match m.1 with
  | .vf =>
    match currentInstr m.2 with
    | some i => exec i m.2
    | none => .next m.2
  | .issue i => if issueAdmitted i m.2 then exec i m.2 else .next (refuse m.2)
  | .receive => .next (hostReceive m.2)
  | .pf p => .next (pfMove p m.2)
  | .dev d => .next (devMove d m.2)

/-- The state with the message of a table word placed where the next step executes it (assumption 11).
A request is not fetched from words by the block: it is placed as the message the running command is
about to build. -/
def State.withFetchWord (s : State) (nbits w : Nat) : State := placeMessage nbits w s

end Sys2Proof.Machine
end

