-- ==== Sys2Proof/Safety.lean ====
section
/-!
DEFINITION. What counts as a safe run, the invariant of the machine, the conformant PF of R81, and the
vocabulary statements are written in.
-/

namespace Sys2Proof.Machine

open Sys2Proof

/-! ## Runs -/

/-- The run carries no refusal mark: the premise any claim about a run takes (R260). -/
def NoRefusal (s : State) : Prop := s.refusalMark = false

/-- `k` steps of the machine, stopping at a fault or a refusal. -/
def runSteps : Nat → State → Outcome
  | 0, s => .next s
  | k + 1, s =>
    match step s with
    | .next t => runSteps k t
    | .fault r => .fault r
    | .refused r => .refused r

/-- From `s` the machine comes to `t` in `k` steps. -/
def Reaches (k : Nat) (s t : State) : Prop := runSteps k s = .next t

/-- The next move is the block's own. -/
def BlockMoves (s : State) : Prop := (nextMove s).1 = .vf

/-! ## Where a command stands -/

/-- The command `i` runs in frame `f` and stands at point `p` with no update pending. -/
def At (s : State) (f : Frame) (i : Instr) (p : Point) : Prop :=
  s.seq = .busy f ∧ f.cmd = i ∧ f.point = p ∧ f.todo = []

/-- The command has ended: the handle is `h`, the block is `Idle`, and the Host gets `r` (R262). -/
def ended (s : State) (h : Handle) (r : Result) : State :=
  { s with h := h, seq := .idle, result := some r }

/-- The command has been accepted in frame `f` (R35). -/
def accepted (s : State) (f : Frame) : State := { s with seq := .busy f, result := none }

/-- The running command has moved on to point `p`. -/
def movedTo (s : State) (f : Frame) (p : Point) : State := { s with seq := .busy { f with point := p } }

/-- The request `ws` stands in `MSG[0..len-1]`, the rest of `MSG` as before, and WRITE_POSTED is next. -/
def staged (s : State) (f : Frame) (ws : List Word) : State :=
  { s with
    msg := (ws ++ s.msg.drop ws.length).take s.msg.length
    seq := .busy { f with point := .postStart, req0 := ws.headD 0#32, reqLen := ws.length } }

/-- The commands that are mailbox-mediated operations (R170). -/
def isOperation : Instr → Bool
  | .setMac _ | .setVlan _ _ | .updateMc _ | .setMacvlan _ _ | .getReta | .getRssKey
  | .negotiateApi _ => true
  | _ => false

/-- The three commands that are the transport's own contracts. -/
def isTransport : Instr → Bool
  | .writePosted _ _ _ | .readPosted _ _ | .exchange _ _ => true
  | _ => false

/-- The commands that post and read messages: the operations, RESET, and the transport's own. -/
def usesTransport (i : Instr) : Bool := isOperation i || isTransport i || decide (i = .reset)

/-! ## The statuses a command can return (R265) -/

/-- The error kinds of the three transport exits. -/
def transportErrors : List ErrorKind := [.transportTimeout, .deviceRemoved, .resetInProgress]

/-- The error kinds a command can return: the rows of R265. -/
def errorsOf : Instr → List ErrorKind
  | .writePosted _ _ _ | .readPosted _ _ | .exchange _ _ | .setVlan _ _ | .updateMc _ =>
    transportErrors
  | .setMac _ | .setMacvlan _ _ | .negotiateApi _ =>
    [.protocolMismatch, .nacked] ++ transportErrors
  | .getReta | .getRssKey => [.protocolMismatch, .permissionDenied, .notSupported] ++ transportErrors
  | .reset => [.resetTimeout, .invalidMacAddr] ++ transportErrors
  | .checkLink => [.deviceRemoved, .resetInProgress]
  | _ => []

/-- The command may return this status (R265). -/
def statusAllowed (i : Instr) : Status → Bool
  | .ok => true
  | .error e => decide (e ∈ errorsOf i)

/-! ## Points and frames -/

/-- A point of WRITE_POSTED (R143). -/
def isPostPoint : Point → Bool
  | .postStart | .lockBudget .post | .lockWrite .post | .lockRead .post | .lockTest .post
  | .lockDelay .post | .copyOut | .postReq | .postFlush | .postDone => true
  | _ => false

/-- A point of READ_POSTED (R144). -/
def isReadPoint : Point → Bool
  | .readStart | .pollBudget | .pollRead | .pollTest | .pollDelay | .lockBudget .read
  | .lockWrite .read | .lockRead .read | .lockTest .read | .lockDelay .read | .copyIn | .copyStore
  | .copyInTest | .ackWrite | .ackFlush | .readDone => true
  | _ => false

/-- The point is a position of the command's pseudocode. -/
def pointOf (i : Instr) (p : Point) : Bool :=
  match i with
  | .start | .init | .mtaVector _ _ | .readHandle _ => decide (p = .run)
  | .stop =>
    decide (p ∈ [Point.txRead, .txWrite, .rxRead, .rxWrite, .maskWrite, .stopFlush, .stopDone])
  | .reset =>
    decide (p ∈ [Point.ctrlWrite, .ctrlFlush, .settle, .rstSample, .rstTest, .rstDelay, .arm, .await,
      .replySettle, .encode, .decode]) || isPostPoint p || isReadPoint p
  | .setMac _ | .setVlan _ _ | .setMacvlan _ _ | .getReta | .getRssKey | .negotiateApi _ =>
    decide (p ∈ [Point.encode, .decode]) || isPostPoint p || isReadPoint p
  | .updateMc _ => decide (p ∈ [Point.hash, .encode, .decode]) || isPostPoint p || isReadPoint p
  | .exchange _ _ => isPostPoint p || isReadPoint p
  | .writePosted _ _ _ => isPostPoint p
  | .readPosted _ _ => isReadPoint p
  | .checkForRst _ => decide (p ∈ [Point.indicatorRead, .indicatorTest])
  | .checkLink => decide (p ∈ [Point.indicatorRead, .indicatorTest, .linksRead, .linksTest])
  | _ => false

/-- The frame is one the sequencer can hold: the point belongs to the command, and the message a command
builds is known before it is built, and is a well-formed request; the hash loop begins with no vector. -/
def Frame.ok (p : Config.Params) (f : Frame) : Bool :=
  pointOf f.cmd f.point && decide (f.point = .hash → f.req = some (.setMulticastReq [])) &&
    match f.req with
    | some r => decide (r.group = .request) && r.wellFormed p
    | none =>
      decide (f.point ∉ [Point.ctrlWrite, .ctrlFlush, .settle, .rstSample, .rstTest, .rstDelay, .arm,
        .encode])

/-! ## Pending updates -/

/-- The primitive is a `return` or a `raise`. -/
def Prim.isEnd : Prim → Bool
  | .ends _ _ => true
  | _ => false

/-- The primitive writes `H.fsm`. -/
def Prim.setsFsm : Prim → Bool
  | .fsm _ => true
  | _ => false

/-- The command may make this update: which command's pseudocode writes which register (R21 to R32,
R172), and which status it may return (R265). -/
def primOk (c : Instr) : Prim → Bool
  | .msg _ _ => isOperation c || decide (c = .reset)
  | .anyBuf _ => usesTransport c
  | .anyMsg _ => match c with
    | .readPosted _ _ => true
    | _ => false
  | .hash _ => match c with
    | .updateMc _ => true
    | _ => false
  | .emit _ => match c with
    | .updateMc _ | .mtaVector _ _ => true
    | _ => false
  | .permAddr _ | .filterType _ | .mbxTimeout _ | .macValid _ => decide (c = .reset)
  | .curAddr _ => match c with
    | .setMac _ => true
    | _ => false
  | .curFromPerm => match c with
    | .setMac _ | .init => true
    | _ => false
  | .apiVersion _ => match c with
    | .negotiateApi _ | .reset => true
    | _ => false
  | .rssKey bs => decide (c = .getRssKey) && decide (bs.length = Config.rssKeyBytes)
  | .reta _ _ => decide (c = .getReta)
  | .linkUp _ | .linkSpeed _ | .speedAny => decide (c = .checkLink)
  | .stopped b => if b then decide (c = .stop) else decide (c = .start) || decide (c = .init)
  | .fsm x => decide (c = .reset) || (decide (c = .stop) && decide (x = .stopped))
  | .ends status _ => statusAllowed c status

/-- The pending updates of a running command are updates that command may make, only the last of them
ends it, at most one of them writes the control state, and the command stands at a point of its own. -/
def PendingOk (s : State) : Prop :=
  ∀ f, s.seq = .busy f → pointOf f.cmd f.point = true ∧ (∀ p ∈ f.todo, primOk f.cmd p = true) ∧
    (∀ p ∈ f.todo.dropLast, p.isEnd = false) ∧ f.todo.countP Prim.setsFsm ≤ 1

/-! ## The invariant -/

/-- The control state RESET has reached at each of its points (R211). -/
def resetPhase (p : Point) : Fsm :=
  if isReadPoint p || decide (p ∈ [Point.replySettle, .decode]) then .awaitingPermAddr
  else .resetting

/-- RESET has armed the timeout (R214). -/
def afterArm (p : Point) : Bool :=
  isReadPoint p || isPostPoint p || decide (p ∈ [Point.encode, .await, .replySettle, .decode])

/-- How the control state, the sequencer and the armed timeout belong together when no update is
pending. -/
structure Control (s : State) : Prop where
  /-- the running command stands at a point of its own -/
  frame : ∀ f, s.seq = .busy f → f.ok s.cfg = true
  /-- an operation runs only in `Ready` (R170) -/
  operation : ∀ f, s.seq = .busy f → isOperation f.cmd = true → s.h.fsm = .ready
  /-- a running RESET has reached the control state of its point (R211) -/
  phase : ∀ f, s.seq = .busy f → f.cmd = .reset → s.h.fsm = resetPhase f.point
  /-- the two middle states occur only while RESET runs (R210) -/
  middle : s.h.fsm = .resetting ∨ s.h.fsm = .awaitingPermAddr →
    ∃ f, s.seq = .busy f ∧ f.cmd = .reset
  /-- in `Ready`, and in RESET once it has armed, the timeout is armed (R149, R297) -/
  armed : s.h.fsm = .ready ∨ (∃ f, s.seq = .busy f ∧ f.cmd = .reset ∧ afterArm f.point = true) →
    s.h.mbxTimeout = s.cfg.mbxInitTimeout
  /-- a RESET that has armed has set the version back (R24, R214) -/
  rebased : ∀ f, s.seq = .busy f → f.cmd = .reset → afterArm f.point = true →
    s.h.apiVersion = s.cfg.apiBase

/-- The invariant every step keeps. -/
structure Inv (s : State) : Prop where
  /-- the parameters meet the spec's constraints (R8 to R11, R241) -/
  params : s.cfg.Ok
  /-- `MSG` has `MBX_SIZE` words (R8, R36) -/
  msgLength : s.msg.length = s.cfg.mbxSize
  /-- the Host's buffer has `MBX_SIZE` words -/
  hostBufLength : s.hostBuf.length = s.cfg.mbxSize
  /-- the RSS key has forty bytes (R25) -/
  keyLength : s.h.rssKey.length = Config.rssKeyBytes
  /-- the indirection table has 128 entries (R26) -/
  retaLength : s.h.reta.length = Config.retaEntries
  /-- there are `NUM_QUEUES` queue pairs (R8, R46) -/
  queuesLength : s.dev.queues.length = s.cfg.numQueues
  /-- the mailbox memory is canonical -/
  memory : Memory.wf s.dev.mbmem = true
  /-- "never both 1" (R70) -/
  lock : ¬ (s.dev.vfu = true ∧ s.dev.pfu = true)
  /-- the pending updates are the running command's -/
  pending : PendingOk s
  /-- the two middle states occur only while RESET runs (R210) -/
  middle : s.h.fsm = .resetting ∨ s.h.fsm = .awaitingPermAddr →
    ∃ f, s.seq = .busy f ∧ f.cmd = .reset
  /-- the control rules hold once the pending updates have happened -/
  control : Control (settled s)

/-! ## Termination (R308) -/

/-- The point stands inside a counted loop. -/
def isLoopPoint (p : Point) : Bool :=
  decide (p ∈ [Point.lockWrite .post, .lockRead .post, .lockTest .post, .lockDelay .post,
    .lockWrite .read, .lockRead .read, .lockTest .read, .lockDelay .read, .pollRead, .pollTest,
    .pollDelay, .rstSample, .rstTest, .rstDelay])

/-- "provided `Budget` is finite" (R308): a loop that runs has a count, and a command of the transport's
own runs with an armed timeout or a finite `UNARMED_BUDGET`. It asks nothing of the commands R308 says
always end, nor of RESET and the operations, whose timeout is armed (R297). -/
def FiniteBudgets (s : State) : Prop :=
  ∀ f, s.seq = .busy f →
    (isLoopPoint f.point = true → f.n ≠ none) ∧
    (isTransport f.cmd = true → s.h.mbxTimeout ≠ 0#32 ∨ s.cfg.unarmedBudget ≠ none)

/-! ## The conformant PF (R81)

`PF_CONFORMANT` is a named assumption that a claim may take; no rule of the block depends on it. -/

/-- The state after `n` steps of the machine from `s`. -/
def stateAt (s : State) : Nat → State
  | 0 => s
  | n + 1 =>
    match step (stateAt s n) with
    | .next t => t
    | _ => stateAt s n

/-- The PF's step among the moves, if the move is one and is enabled. -/
def pfStepOf (s : State) : Option PfStep :=
  match (nextMove s).1 with
  | .pf p => if pfEnabled s.cfg p s.dev then some p else none
  | _ => none

/-- What the PF owes and what it is doing about it. -/
structure PfDuty where
  /-- the requests taken and not yet answered, oldest first, each as the words the PF learned -/
  owed : List (List Word)
  /-- while the PF holds the buffer for a reply: the words of it written so far -/
  writing : Option (List Nat)
  /-- how many requests have been taken -/
  taken : Nat
  /-- how many replies have been posted -/
  answered : Nat
deriving DecidableEq, Repr

/-- Nothing taken, nothing owed. -/
def PfDuty.none : PfDuty := { owed := [], writing := Option.none, taken := 0, answered := 0 }

/-- The request row a taken message belongs to. DESIGN CHOICE: a message whose word 0 matches no request row
of the opcode table is a request the PF does not know, also where a raw WRITE_POSTED posts words of a reply
row; what the PF does with it is not in the source (R126, assumption 28). -/
def requestRowOf (c : Config.Codes) (seen : List Word) : Option MsgRow :=
  ((requestRows c).find? fun r => word0 seen &&& r.mask == r.pattern).map TableRow.row

/-- The reply words of a request, as 30_encoding.md gives them for its opcode (R107 to R122); a request
the PF does not know has a reply of at least word 0 (R126, R127, assumption 28). -/
def replyWordsOf (c : Config.Codes) (seen : List Word) : Nat :=
  match requestRowOf c seen with
  | some .resetReq => Config.permMsgLen
  | some .setMacReq | some .setMacvlanReq | some .apiNegotiateReq => 3
  | some .setVlanReq => 2
  | some .getRetaReq => 1 + Config.retaWords
  | some .getRssKeyReq => 1 + Config.rssKeyWords
  | _ => 1

/-- The reply words a conformant PF may write: those of the request's opcode; for a request the PF does not
know any word of `MBMEM` (R126, assumption 28). -/
def replyIndexOk (p : Config.Params) (seen : List Word) (i : Nat) : Bool :=
  match requestRowOf p.codes seen with
  | some _ => decide (i < replyWordsOf p.codes seen)
  | none => decide (i < p.mbxSize)

/-- R81 (3): reply word 0 has the request's opcode, "modulo the ack/nack/success/failure flag bits". For
the operations whose reply is classified it is the request's word 0 with one of the operation's two verdict
flags, `FLAG_CTS` or not (R107 to R121); for SET_VLAN, SET_MULTICAST and unknown requests, whose reply no
rule looks at, the opcode alone counts (R111, R113, R126). -/
def replyWord0Ok (c : Config.Codes) (seen : List Word) (w : Word) : Bool :=
  match requestRowOf c seen with
  | some .getRetaReq | some .getRssKeyReq =>
    decide (classify c w (word0 seen) c.flagSuccess c.flagFailure ≠ .mismatch)
  | some .resetReq | some .setMacReq | some .setMacvlanReq | some .apiNegotiateReq =>
    decide (classify c w (word0 seen) c.flagAck c.flagNack ≠ .mismatch)
  | _ => decide (opcodeField c w = opcodeField c (word0 seen))

/-- R81 (2): the payload words the spec constrains. A conformant PF's API_NEGOTIATE reply echoes the
version of the request, its word 1 (R121, R180), and an acknowledged reset reply carries in word 3 a filter
type of 0 to 3 (R107). Every other payload word carries a value of the PF's own or is ignored. DEDUCED: that
the echo is asked of a NACK too, and that R107's valid values bind the PF (assumption 28). -/
def replyPayloadOk (c : Config.Codes) (seen reply : List Word) : Bool :=
  match requestRowOf c seen with
  | some .apiNegotiateReq => decide (reply.getD 1 0#32 = seen.getD 1 0#32)
  | some .resetReq =>
    decide (classify c (word0 reply) (word0 seen) c.flagAck c.flagNack ≠ .positive)
      || filterTypeValid (reply.getD 3 0#32)
  | _ => true

/-- The words `reply` answer the request `seen` as a conformant PF's do (R81 (2), (3)). -/
def replyAnswers (c : Config.Codes) (seen reply : List Word) : Bool :=
  replyWord0Ok c seen (word0 reply) && replyPayloadOk c seen reply

/-- R81 (1) to (3): what the PF owes after an enabled step that a conformant PF may take in the state `s`;
none after one it may not take: a lock without a request taken, a write outside the reply, a post of an
incomplete or wrong reply, an unlock without a reply. DESIGN CHOICE: of several requests taken and not yet
answered the oldest is answered first, a function-level reset takes none of them away, and the reply is
judged at `PF-post` by what `MBMEM` then holds, the words written before counting as written although such a
reset may have scrambled them in between; R81 says none of this (assumption 28). -/
def dutyAfter (p : PfStep) (s : State) (d : PfDuty) : Option PfDuty :=
  match p, d.owed, d.writing with
  | .take, _, _ => some { d with owed := d.owed ++ [mailboxWords s.cfg s.dev], taken := d.taken + 1 }
  | .lock, _ :: _, none => some { d with writing := some [] }
  | .write i _, seen :: _, some is =>
    if replyIndexOk s.cfg seen i then some { d with writing := some (is ++ [i]) } else none
  | .post, seen :: rest, some is =>
    if (List.range (replyWordsOf s.cfg.codes seen)).all (· ∈ is)
        && replyAnswers s.cfg.codes seen (mailboxWords s.cfg s.dev) then
      some { d with owed := rest, writing := none, answered := d.answered + 1 }
    else none
  | .takeAck, _, _ | .rst _, _, _ | .link _, _, _ => some d
  | _, _, _ => none

/-- What the PF owes after `n` steps from `s`; none once it has broken R81 (1) to (3). -/
def dutyAt (s : State) : Nat → Option PfDuty
  | 0 => some PfDuty.none
  | n + 1 => (dutyAt s n).bind fun d =>
    match pfStepOf (stateAt s n) with
    | some p => dutyAfter p (stateAt s n) d
    | none => some d

/-- The posted writes applied between a state and the next one. -/
def appliedWrites (s t : State) : List (Nat × Word) := s.wbuf.take (s.wbuf.length - t.wbuf.length)

/-- A step applies the function-level reset: a write of `CTRL` with `RST = 1` reaches a present device
(R82). -/
def resetsDevice (s t : State) : Bool :=
  !s.dev.removed && (appliedWrites s t).any fun e =>
    decide (regAt s.cfg e.1 = some .ctrl) && hasBit e.2 s.cfg.window.ctrlRst

/-- The block is about to take the last sample of the reply poll that the armed budget permits, of a device
that is present and in no reset (R142). -/
def LastSample (s : State) : Prop :=
  BlockMoves s ∧ s.h.mbxTimeout ≠ 0#32 ∧ s.h.removed = false ∧ s.dev.removed = false ∧
    s.dev.rstip = false ∧
    ∃ f, s.seq = .busy f ∧ f.todo = [] ∧ f.point = .pollRead ∧ (f.n = some 0 ∨ f.n = some 1)

/-- `PF_CONFORMANT` over the run from `s` (R81). -/
structure PfConformant (s : State) : Prop where
  /-- (1), (2), (3): every PF step is one a conformant PF may take -/
  steps : ∀ n, dutyAt s n ≠ none
  /-- (2): every request taken is answered -/
  answers : ∀ n d, dutyAt s n = some d → ∃ m e, dutyAt s m = some e ∧ d.taken ≤ e.answered
  /-- (4): after a function-level reset the PF clears the reset indicator -/
  clears : ∀ n, resetsDevice (stateAt s n) (stateAt s (n + 1)) = true →
    ∃ m, n < m ∧ pfStepOf (stateAt s m) = some (.rst false)
  /-- (5): no request waits for its reply when the last sample of the armed budget is taken -/
  withinBudget : ∀ n d, dutyAt s n = some d → LastSample (stateAt s n) →
    d.owed = [] ∧ (stateAt s n).dev.reqPending = false

end Sys2Proof.Machine
end

