-- ==== Sys2Proof/Certificates/Slice0/Obligations.lean ====
section
/-!
DEFINITION. The statements for the provers. Each docstring names the rule of the spec it formalises, or
says that the statement is about the model.

Where a step leaves updates of the running command pending (each of them a step of its own, assumption 6),
the statement says what they lead to: `exec i s = .next t` with `settled t` the state after them.
-/

open Sys2Proof Sys2Proof.Machine

/-! ## Messages: encoding and decoding -/

/-- Decoding an encoded well-formed message gives the message back, with every operand at every value its
encoding admits, and hands back the words behind it (30_encoding.md section 2), whatever the protocol
constants are within R9. -/
def Obligations.DecodeInvertsEncode : Prop :=
  ∀ (p : Config.Params) (i : Instr) (rest : List Word), p.codes.Ok → i.group ≠ .command →
    i.wellFormed p = true → decode p.codes (encode p.codes i ++ rest) = .ok (i, rest)

/-- A decoded message is a well-formed message of the table, encoding it again gives the very word 0 that
was read (no bit of word 0 is dropped), and the words behind the message are handed back. -/
def Obligations.DecodedMessageKeepsWordZero : Prop :=
  ∀ (p : Config.Params) (ws rest : List Word) (i : Instr), p.codes.Ok →
    decode p.codes ws = .ok (i, rest) →
    i.group ≠ .command ∧ i.wellFormed p = true ∧ (encode p.codes i).head? = ws.head? ∧
      rest = ws.drop (encode p.codes i).length ∧ (encode p.codes i).length ≤ ws.length

/-- A few words of 30_encoding.md and 95_test_vectors.md decode, with the default constants, to the
messages they stand for. -/
def Obligations.WrittenWordsDecode : Prop :=
  decode Config.defaultCodes [0x00010004#32, 0x00000064#32] = .ok (.setVlanReq 100#12 true, []) ∧
  decode Config.defaultCodes [0x00020003#32, 0x05630FB0#32]
    = .ok (.setMulticastReq [0xFB0#12, 0x563#12], []) ∧
  decode Config.defaultCodes [0x80000001#32, 0x33221102#32, 0x00005544#32, 0x00000007#32]
    = .ok (.resetAck false ⟨0x02#8, 0x11#8, 0x22#8, 0x33#8, 0x44#8, 0x55#8⟩ 7#32, []) ∧
  decode Config.defaultCodes [0x60010006#32, 0#32, 0#32] = .ok (.setMacvlanNack true 1#32, []) ∧
  decode Config.defaultCodes [0x12345678#32] = .error (.unknownWord0 0x12345678#32)

/-- R102: the word-0 constructor `mk0(op, info) = op | (zext_32(info) << INFO_SHIFT)` is used by every
request, and a request never has a flag bit or a reserved bit set. -/
def Obligations.RequestWordZeroIsMk0 : Prop :=
  (∀ (c : Config.Codes) (op info : Word), mk0 c op info = op ||| (info <<< c.infoShift)) ∧
  ∀ (p : Config.Params) (i : Instr), p.codes.Ok → i.group = .request → i.wellFormed p = true →
    (∃ op ∈ p.codes.opcodes, ∃ info : Word, info.toNat < 2 ^ p.codes.infoWidth ∧
      (encode p.codes i).head? = some (mk0 p.codes op info)) ∧
    word0 (encode p.codes i) &&& p.codes.flagMask = 0#32 ∧
    word0 (encode p.codes i)
      &&& ~~~(p.codes.opcodeMask ||| p.codes.infoMask ||| p.codes.flagMask) = 0#32

/-- R131: `decode_vlan` reads the VLAN id from word 1 and the on/off flag from the info field, and is the
inverse of the SET_VLAN encoder for every id and flag. -/
def Obligations.VlanRequestRoundTrips : Prop :=
  (∀ (c : Config.Codes) (w0 w1 : Word), w0 &&& c.opcodeMask = c.opSetVlan →
    decodeVlan c w0 w1
      = (w1.extractLsb' 0 12, ((w0 &&& c.infoMask) >>> c.infoShift).getLsbD 0)) ∧
  ∀ (c : Config.Codes) (vlanId : BitVec 12) (vlanOn : Bool), c.Ok →
    decodeVlan c (mk0 c c.opSetVlan (if vlanOn then 1#32 else 0#32)) (vlanId.setWidth 32)
      = (vlanId, vlanOn)

/-- The packing helpers of R65, and the table packing of R117 and R178: an address is packed little-endian
into two words with zero padding, unpacked from them whatever the padding is, and is itself after both;
`key_bytes` puts byte `4*i + j` at bits `8*j+7 : 8*j` of word `i`, `pack16` puts value `2*i` in the low and
value `2*i+1` in the high half of word `i`, and table entry `16*i + j` is bits `2*j+1 : 2*j` of payload word
`i`: that position is what R117 marks as general knowledge, not in the source. -/
def Obligations.PackingHelpers : Prop :=
  (∀ a : MacAddr, pack48 a = (a.a3 ++ a.a2 ++ a.a1 ++ a.a0, 0#16 ++ a.a5 ++ a.a4)) ∧
  (∀ w1 w2 : Word, unpack48 w1 w2 = ⟨w1.extractLsb' 0 8, w1.extractLsb' 8 8, w1.extractLsb' 16 8,
    w1.extractLsb' 24 8, w2.extractLsb' 0 8, w2.extractLsb' 8 8⟩) ∧
  (∀ a : MacAddr, unpack48 (pack48 a).1 (pack48 a).2 = a) ∧
  (∀ (ws : List Word) (i j : Nat) (w : Word), ws[i]? = some w → j < 4 →
    (keyBytes ws)[4 * i + j]? = some (w.extractLsb' (8 * j) 8)) ∧
  (∀ ws : List Word, (keyBytes ws).length = 4 * ws.length) ∧
  (∀ (vs : List (BitVec 16)) (i : Nat), 2 * i < vs.length →
    (pack16 vs)[i]? = some ((vs.getD (2 * i) 0#16).setWidth 32
      ||| ((vs.getD (2 * i + 1) 0#16).setWidth 32 <<< 16))) ∧
  (∀ vs : List (BitVec 16), (pack16 vs).length = (vs.length + 1) / 2) ∧
  (∀ (ws : List Word) (i j : Nat) (w : Word), ws[i]? = some w → j < 16 →
    (retaOf ws)[16 * i + j]? = some (w.extractLsb' (2 * j) 2)) ∧
  ∀ ws : List Word, (retaOf ws).length = 16 * ws.length

/-- R124: with `FLAG_CTS` cleared the reply word is compared with the request word and the negative flag,
then with the request word and the positive flag. So, for a request word without flags, a reply is positive
(negative) exactly when its opcode, info and reserved bits are the request's and, `FLAG_CTS` aside, exactly
the positive (negative) flag is set in its flag field; `FLAG_CTS` does not matter; everything else is a
mismatch. -/
def Obligations.ClassifyComparesWholeWord : Prop :=
  (∀ (c : Config.Codes) (w req0 pos neg : Word),
    (w &&& ~~~c.flagCts = req0 ||| neg → classify c w req0 pos neg = .negative) ∧
    (w &&& ~~~c.flagCts ≠ req0 ||| neg → w &&& ~~~c.flagCts = req0 ||| pos →
      classify c w req0 pos neg = .positive) ∧
    (w &&& ~~~c.flagCts ≠ req0 ||| neg → w &&& ~~~c.flagCts ≠ req0 ||| pos →
      classify c w req0 pos neg = .mismatch)) ∧
  ∀ (c : Config.Codes) (w req0 pos neg : Word), c.Ok → req0 &&& c.flagMask = 0#32 →
    (pos = c.flagAck ∧ neg = c.flagNack ∨ pos = c.flagSuccess ∧ neg = c.flagFailure) →
    (classify c w req0 pos neg = .positive ↔
      w &&& ~~~c.flagMask = req0 ∧ w &&& c.flagMask &&& ~~~c.flagCts = pos) ∧
    (classify c w req0 pos neg = .negative ↔
      w &&& ~~~c.flagMask = req0 ∧ w &&& c.flagMask &&& ~~~c.flagCts = neg) ∧
    classify c (w ||| c.flagCts) req0 pos neg = classify c w req0 pos neg

/-- R175: for the types 0 to 3 the vector is the address bits 47:36, 46:35, 45:34, 43:32 (windows that R175
marks as general knowledge, not in the source); for every other type it is 0. Bytes 0 to 3 of the address
never matter. -/
def Obligations.HashWindows : Prop :=
  ∀ (a : MacAddr) (t : Word),
    let bits : BitVec 48 := a.a5 ++ a.a4 ++ a.a3 ++ a.a2 ++ a.a1 ++ a.a0
    (t = 0#32 → mtaWindow a t = bits.extractLsb' 36 12) ∧
    (t = 1#32 → mtaWindow a t = bits.extractLsb' 35 12) ∧
    (t = 2#32 → mtaWindow a t = bits.extractLsb' 34 12) ∧
    (t = 3#32 → mtaWindow a t = bits.extractLsb' 32 12) ∧
    (3 < t.toNat → mtaWindow a t = 0#12) ∧
    ∀ b0 b1 b2 b3 : Byte, mtaWindow ⟨b0, b1, b2, b3, a.a4, a.a5⟩ t = mtaWindow a t

/-! ## Steps of the machine -/

/-- A step runs the decoded instruction. When it is the block's move, the step is exec of the block's
current instruction at the same state less the move taken from the schedule. At the decode point the words
of `MSG` are decoded and a reply of the table found there is that instruction; words that are no reply of
the table are left to the running command (assumption 9). A pending update of the running command is a step
by itself, the first of them first, and after as many steps of the block as there are updates the state is
`settled` (assumption 6). -/
def Obligations.StepRunsDecodedInstruction : Prop :=
  (∀ (s : State) (i : Instr),
    (s.sched = [] → currentInstr s = some i → step s = exec i s) ∧
    (∀ rest, s.sched = .vf :: rest → currentInstr s = some i →
      step s = exec i { s with sched := rest })) ∧
  (∀ (s : State) (f : Frame), s.sched = [] → s.seq = .busy f → f.point = .decode → f.todo = [] →
    (∀ i rest, decode s.cfg.codes s.msg = .ok (i, rest) → i.group = .reply → step s = exec i s) ∧
    (∀ i rest, decode s.cfg.codes s.msg = .ok (i, rest) → i.group ≠ .reply →
      step s = exec f.cmd s) ∧
    (∀ e, decode s.cfg.codes s.msg = .error e → step s = exec f.cmd s)) ∧
  ∀ (s : State) (f : Frame), s.sched = [] → s.seq = .busy f → f.cmd.group = .command →
    (∀ p ps, f.todo = p :: ps → step s = .next (runPrim p (plan ps f s))) ∧
    Reaches f.todo.length s (settled s)

/-- What the table's decoder finds in `MSG` and what the command's own interpretation of `MSG` does are the
same: executing the decoded reply is executing the command that waits for it (R124, R182). That a reply row
is executed as a step, and that the payload words a decoder ignores stand as no operands of it, are the
model's reading (assumptions 9 and 24). -/
def Obligations.DecodedReplyAgreesWithCommand : Prop :=
  ∀ (s : State) (f : Frame) (c i : Instr) (rest : List Word), At s f c .decode → s.cfg.codes.Ok →
    isOperation c = true ∨ c = .reset →
    (c = .getReta → f.req0 = s.cfg.codes.opGetReta) →
    (c = .getRssKey → f.req0 = s.cfg.codes.opGetRssKey) →
    (∀ v, c = .negotiateApi v → f.req0 = s.cfg.codes.opApiNegotiate) →
    decode s.cfg.codes s.msg = .ok (i, rest) → i.group = .reply → exec i s = exec c s

/-- R83: the Host's steps. A command issued while another runs is refused: the run is marked and nothing
else changes; one issued while the block is idle is offered to it; receiving takes the result. -/
def Obligations.SecondCommandIsRefused : Prop :=
  ∀ (s : State) (i : Instr) (rest : List Move),
    (s.sched = .issue i :: rest → s.seq ≠ .idle →
      step s = .next { s with sched := rest, refusalMark := true }) ∧
    (s.sched = .issue i :: rest → s.seq = .idle → i.group = .command →
      (∀ a b, i ≠ .exchange a b) → step s = exec i { s with sched := rest }) ∧
    (s.sched = .receive :: rest → step s = .next { s with sched := rest, result := none })

/-! ## Admission (R212) -/

/-- STOP, START, INIT, MTA_VECTOR, READ_HANDLE and CHECK_LINK are accepted in every control state, at the
first point of their pseudocode: STOP at the read of `TXDCTL[0]`, or at the write of `INT_MASK` when there
is no queue, CHECK_LINK at its sample of `MBX`, the others at their one point. The sequencer becomes busy
with the command and nothing else changes but the result, which is cleared. -/
def Obligations.AlwaysAdmittedCommands : Prop :=
  ∀ (s : State) (i : Instr), s.seq = .idle →
    (i = .stop ∨ i = .start ∨ i = .init ∨ i = .checkLink ∨ (∃ a t, i = .mtaVector a t) ∨
      (∃ r, i = .readHandle r)) →
    ∃ f, f.cmd = i ∧ f.i = 0 ∧ f.todo = [] ∧
      f.point = (if i = .stop then if s.cfg.numQueues = 0 then .maskWrite else .txRead
        else if i = .checkLink then .indicatorRead else .run) ∧
      exec i s = .next (accepted s f)

/-- RESET is accepted only in `Stopped` with the stopped flag set, and its first step is the transition to
`Resetting`, after which it stands at the write of `CTRL`; otherwise it is refused and nothing else changes
(R211, R212). The accepted RESET will read 4 words of reply (R122). -/
def Obligations.ResetAdmission : Prop :=
  ∀ s : State, s.seq = .idle →
    (s.h.fsm = .stopped ∧ s.h.adapterStopped = true →
      ∃ f, f.cmd = .reset ∧ f.point = .ctrlWrite ∧ f.req = some .resetReq ∧ f.rspLen = 4 ∧
        f.todo = [.fsm .resetting] ∧ exec .reset s = .next (accepted s f) ∧
        settled (accepted s f)
          = accepted { s with h := { s.h with fsm := .resetting } } { f with todo := [] }) ∧
    (s.h.fsm ≠ .stopped ∨ s.h.adapterStopped = false →
      exec .reset s = .next { s with refusalMark := true })

/-- SET_MAC, SET_VLAN, UPDATE_MC, SET_MACVLAN and NEGOTIATE_API are accepted in `Ready` and refused in
every other control state (R170, R212). The accepted command holds its own request with its own operands
(R173, R174, R177, R180; SET_MACVLAN with index 0 sends a zero address; UPDATE_MC begins with no vector and
hashes its addresses first, R176), builds it next, and will read as many words of reply as R122 gives it. A
SET_MACVLAN index that does not fit in the info
field is refused in every control state, which is the model's reading of R102 and U14 (assumption 22). -/
def Obligations.OperationAdmission : Prop :=
  ∀ (s : State) (i : Instr), s.seq = .idle → isOperation i = true → i ≠ .getReta → i ≠ .getRssKey →
    (s.h.fsm = .ready → (∀ x a, i = .setMacvlan x a → x.toNat < 2 ^ s.cfg.codes.infoWidth) →
      ∃ f, f.cmd = i ∧ f.todo = [] ∧ exec i s = .next (accepted s f) ∧
        (∀ a, i = .setMac a → f.point = .encode ∧ f.req = some (.setMacReq a) ∧ f.rspLen = 3) ∧
        (∀ vlanId vlanOn, i = .setVlan vlanId vlanOn →
          f.point = .encode ∧ f.req = some (.setVlanReq vlanId vlanOn) ∧ f.rspLen = 2) ∧
        (∀ list, i = .updateMc list →
          f.point = .hash ∧ f.req = some (.setMulticastReq []) ∧ f.rspLen = 1) ∧
        (∀ x a, i = .setMacvlan x a → f.point = .encode ∧
          f.req = some (.setMacvlanReq x (if x = 0#32 then MacAddr.zero else a)) ∧ f.rspLen = 3) ∧
        (∀ v, i = .negotiateApi v →
          f.point = .encode ∧ f.req = some (.apiNegotiateReq v) ∧ f.rspLen = 3)) ∧
    (s.h.fsm ≠ .ready → exec i s = .next { s with refusalMark := true }) ∧
    (∀ x a, i = .setMacvlan x a → 2 ^ s.cfg.codes.infoWidth ≤ x.toNat →
      exec i s = .next { s with refusalMark := true })

/-- GET_RETA and GET_RSS_KEY make their NotSupported test first, in every control state and without any
register access; then they are accepted in `Ready` with their own request, which is built next, and with 9 and
11 words of reply to read, and refused elsewhere (R122, R170, R178, R179, R181, R255). -/
def Obligations.QueryAdmission : Prop :=
  ∀ (s : State) (i : Instr), s.seq = .idle → i = .getReta ∨ i = .getRssKey →
    (¬ (s.h.apiVersion ∈ s.cfg.apiRssSet ∧ s.cfg.gen = .g82599) →
      exec i s = .next (ended s s.h ⟨.error .notSupported, .none⟩)) ∧
    (s.h.apiVersion ∈ s.cfg.apiRssSet → s.cfg.gen = .g82599 → s.h.fsm = .ready →
      ∃ f, f.cmd = i ∧ f.point = .encode ∧ f.todo = [] ∧
        f.req = some (if i = .getReta then .getRetaReq else .getRssKeyReq) ∧
        f.rspLen = (if i = .getReta then 9 else 11) ∧
        exec i s = .next (accepted s f)) ∧
    (s.h.apiVersion ∈ s.cfg.apiRssSet → s.cfg.gen = .g82599 → s.h.fsm ≠ .ready →
      exec i s = .next { s with refusalMark := true })

/-- The transport commands are accepted in every control state with `mailbox_id = 0` and
`1 <= len <= MBX_SIZE`, and refused otherwise (R147). EXCHANGE is accepted likewise as the internal command
of R146, and a move of the Host that issues it, or a message row, is refused: both are the model's reading
of R128 and R129 (assumption 22). -/
def Obligations.TransportAdmission : Prop :=
  (∀ (s : State) (i : Instr) (rest : List Move), s.sched = .issue i :: rest →
    (i.group ≠ .command ∨ (∃ a b, i = .exchange a b)) →
    step s = .next { s with sched := rest, refusalMark := true }) ∧
  ∀ (s : State) (msg : List Word) (len id : Nat), s.seq = .idle →
    (msg.length = len → 1 ≤ len → len ≤ s.cfg.mbxSize → id = 0 →
      ∃ f, f.cmd = .writePosted msg len id ∧ f.point = .postStart ∧ f.reqLen = len ∧ f.todo = [] ∧
        exec (.writePosted msg len id) s = .next (accepted s f)) ∧
    (msg.length = len → (len = 0 ∨ s.cfg.mbxSize < len ∨ id ≠ 0) →
      exec (.writePosted msg len id) s = .next { s with refusalMark := true }) ∧
    (1 ≤ len → len ≤ s.cfg.mbxSize → id = 0 →
      ∃ f, f.cmd = .readPosted len id ∧ f.point = .readStart ∧ f.rspLen = len ∧ f.todo = [] ∧
        exec (.readPosted len id) s = .next (accepted s f)) ∧
    ((len = 0 ∨ s.cfg.mbxSize < len ∨ id ≠ 0) →
      exec (.readPosted len id) s = .next { s with refusalMark := true }) ∧
    (id = 0 → ∃ f, f.cmd = .checkForRst id ∧ f.point = .indicatorRead ∧ f.todo = [] ∧
        exec (.checkForRst id) s = .next (accepted s f)) ∧
    (id ≠ 0 → exec (.checkForRst id) s = .next { s with refusalMark := true }) ∧
    ∀ rspLen, 1 ≤ len → len ≤ s.cfg.mbxSize → 1 ≤ rspLen → rspLen ≤ s.cfg.mbxSize →
      ∃ f, f.cmd = .exchange len rspLen ∧ f.point = .postStart ∧ f.reqLen = len ∧
        f.rspLen = rspLen ∧ f.todo = [] ∧ exec (.exchange len rspLen) s = .next (accepted s f)

/-! ## Commands that touch no register -/

/-- R215: START is accepted in every control state, clears the stopped flag only, returns `OK`, and changes
nothing else. -/
def Obligations.StartClearsStoppedFlag : Prop :=
  ∀ s : State,
    (s.seq = .idle →
      ∃ f, f.cmd = .start ∧ f.point = .run ∧ exec .start s = .next (accepted s f)) ∧
    ∀ f : Frame, At s f .start .run →
      ∃ t, exec .start s = .next t ∧
        settled t = ended s { s.h with adapterStopped := false } ⟨.ok, .none⟩

/-- R216: INIT clears the stopped flag and copies the permanent address, which is some unconstrained
address while `H.mac_valid = 0` (each address can be drawn); it returns `OK` and touches no register. -/
def Obligations.InitCopiesPermanentAddress : Prop :=
  ∀ (s : State) (f : Frame), At s f .init .run →
    (∀ (a : MacAddr) (rest : List Word), s.h.macValid = false →
      s.tape = (pack48 a).1 :: (pack48 a).2 :: rest →
      ∃ t, exec .init s = .next t ∧
        settled t = ended { s with tape := rest }
          { s.h with adapterStopped := false, curAddr := a } ⟨.ok, .none⟩) ∧
    (s.h.macValid = true →
      ∃ t, exec .init s = .next t ∧
        settled t = ended s { s.h with adapterStopped := false, curAddr := s.h.permAddr }
          ⟨.ok, .none⟩) ∧
    (s.h.macValid = false → ∃ (a : MacAddr) (tape : List Word) (drawn : Nat) (t : State),
      exec .init s = .next t ∧
        settled t = ended { s with tape := tape, drawn := drawn }
          { s.h with adapterStopped := false, curAddr := a } ⟨.ok, .none⟩)

/-- R175, R271: MTA_VECTOR returns twelve bits of its address operand, numbered with byte 0 as bits 7:0, with
status `OK`: from bit 36, 35, 34 or 32 on for the types 0 to 3 (windows that R175 marks as general knowledge,
not in the source). For an invalid filter type it returns 0 and emits one diagnostic event. Nothing else
changes. -/
def Obligations.MtaVectorReturnsHash : Prop :=
  ∀ (s : State) (f : Frame) (a : MacAddr) (t : Word), At s f (.mtaVector a t) .run →
    (∀ lo : Nat, (t = 0#32 ∧ lo = 36 ∨ t = 1#32 ∧ lo = 35 ∨ t = 2#32 ∧ lo = 34 ∨
        t = 3#32 ∧ lo = 32) →
      exec (.mtaVector a t) s = .next (ended s s.h
        ⟨.ok, .vector ((a.a5 ++ a.a4 ++ a.a3 ++ a.a2 ++ a.a1 ++ a.a0).extractLsb' lo 12)⟩)) ∧
    (3 < t.toNat →
      ∃ u, exec (.mtaVector a t) s = .next u ∧
        settled u = ended { s with diag := s.diag ++ [.badFilterType t] } s.h ⟨.ok, .vector 0#12⟩)

/-- R130: READ_HANDLE returns the named register and changes nothing; `H.perm_addr` is some
unconstrained address while `H.mac_valid = 0` (each address can be drawn, R21). -/
def Obligations.ReadHandleReturnsRegister : Prop :=
  ∀ (s : State) (f : Frame) (r : HandleField), At s f (.readHandle r) .run →
    (r ≠ .permAddr ∨ s.h.macValid = true →
      exec (.readHandle r) s = .next (ended s s.h ⟨.ok, .handle (match r with
        | .permAddr => .address s.h.permAddr
        | .curAddr => .address s.h.curAddr
        | .mcFilterType => .word s.h.mcFilterType
        | .apiVersion => .word s.h.apiVersion
        | .rssKey => .bytes s.h.rssKey
        | .reta => .table s.h.reta
        | .linkUp => .flag s.h.linkUp
        | .linkSpeed => .speed s.h.linkSpeed
        | .mbxTimeout => .word s.h.mbxTimeout
        | .adapterStopped => .flag s.h.adapterStopped
        | .fsm => .control s.h.fsm
        | .macValid => .flag s.h.macValid
        | .removed => .flag s.h.removed)⟩)) ∧
    (r = .permAddr → s.h.macValid = false → ∃ (a : MacAddr) (tape : List Word) (drawn : Nat),
      exec (.readHandle r) s
        = .next (ended { s with tape := tape, drawn := drawn } s.h ⟨.ok, .handle (.address a)⟩)) ∧
    (r = .permAddr → s.h.macValid = false → ∀ (a : MacAddr) (rest : List Word),
      s.tape = (pack48 a).1 :: (pack48 a).2 :: rest →
      exec (.readHandle r) s
        = .next (ended { s with tape := rest } s.h ⟨.ok, .handle (.address a)⟩))

/-! ## STOP, RESET, the link reader, CHECK_FOR_RST -/

/-- STOP's accesses and its end (R213). In each queue the transmit enable is cleared before the receive
enable, by reading the register and writing it back with `ENABLE` cleared and every other bit kept; then 0 is
written to `INT_MASK` and the writes are flushed (a write of a device known to be gone is dropped). At the end
the stopped flag is set, the control state is `Stopped`, the status is `OK`, and nothing else changes; whether
the device is removed does not matter. -/
def Obligations.StopMarksStopped : Prop :=
  ∀ (s : State) (f : Frame),
    let posted (off : Nat) (w : Word) : List (Nat × Word) :=
      if s.h.removed = true then s.wbuf else s.wbuf ++ [(off, w)]
    let cleared : Word := f.v &&& ~~~(1#32 <<< s.cfg.window.dctlEnable)
    (At s f .stop .txRead → exec .stop s = .next { (regRead (.txdctl f.i) s).2 with
      seq := .busy { f with v := (regRead (.txdctl f.i) s).1, point := .txWrite } }) ∧
    (At s f .stop .txWrite → exec .stop s = .next { s with
      wbuf := posted (s.cfg.window.offTxdctl.getD f.i 0) cleared
      seq := .busy { f with point := .rxRead } }) ∧
    (At s f .stop .rxRead → exec .stop s = .next { (regRead (.rxdctl f.i) s).2 with
      seq := .busy { f with v := (regRead (.rxdctl f.i) s).1, point := .rxWrite } }) ∧
    (At s f .stop .rxWrite → exec .stop s = .next { s with
      wbuf := posted (s.cfg.window.offRxdctl.getD f.i 0) cleared
      seq := .busy { f with
        i := f.i + 1, point := if f.i + 1 < s.cfg.numQueues then .txRead else .maskWrite } }) ∧
    (At s f .stop .maskWrite → exec .stop s = .next { s with
      wbuf := posted s.cfg.window.offIntMask 0#32, seq := .busy { f with point := .stopFlush } }) ∧
    (At s f .stop .stopFlush → exec .stop s = .next { flush s with
      seq := .busy { f with point := .stopDone } }) ∧
    (At s f .stop .stopDone → ∃ t, exec .stop s = .next t ∧
      settled t = ended s { s.h with adapterStopped := true, fsm := .stopped } ⟨.ok, .none⟩)

/-- RESET's end (R182, R214, R258). A positively classified reset reply: the permanent address and the
filter type are taken from its words, the address is valid, the control state is `Ready`. Any other reply:
InvalidMacAddr, `H.mac_valid = 0`, `Ready`; neither the permanent address nor the filter type is written. -/
def Obligations.ResetInterpretsReply : Prop :=
  ∀ (s : State) (f : Frame), At s f .reset .decode → s.cfg.codes.Ok →
    (∀ (w0 w1 w2 w3 : Word) (more : List Word), s.msg = w0 :: w1 :: w2 :: w3 :: more →
      w0 &&& ~~~s.cfg.codes.flagCts = s.cfg.codes.opReset ||| s.cfg.codes.flagAck →
      ∃ t, exec .reset s = .next t ∧
        settled t = ended s
          { s.h with
            permAddr := ⟨w1.extractLsb' 0 8, w1.extractLsb' 8 8, w1.extractLsb' 16 8,
              w1.extractLsb' 24 8, w2.extractLsb' 0 8, w2.extractLsb' 8 8⟩
            mcFilterType := w3
            macValid := true
            fsm := .ready } ⟨.ok, .none⟩) ∧
    (word0 s.msg &&& ~~~s.cfg.codes.flagCts ≠ s.cfg.codes.opReset ||| s.cfg.codes.flagAck →
      ∃ t, exec .reset s = .next t ∧
        settled t = ended s { s.h with macValid := false, fsm := .ready }
          ⟨.error .invalidMacAddr, .none⟩)

/-- One test of RESET's indicator loop (R214, R257): removal ends it with DeviceRemoved, a cleared sample
leads on to arming, the last asserted sample ends it with ResetTimeout, an earlier one is counted. Both
failures leave `Stopped` and `H.mac_valid = 0` and write no other handle register. -/
def Obligations.ResetIndicatorLoop : Prop :=
  ∀ (s : State) (f : Frame) (k : Nat), At s f .reset .rstTest → f.n = some k →
    (s.h.removed = true →
      ∃ t, exec .reset s = .next t ∧
        settled t = ended s { s.h with macValid := false, fsm := .stopped }
          ⟨.error .deviceRemoved, .none⟩) ∧
    (s.h.removed = false → f.v.getLsbD s.cfg.window.mbxRstip = false →
      exec .reset s = .next { s with seq := .busy { f with point := .arm } }) ∧
    (s.h.removed = false → f.v.getLsbD s.cfg.window.mbxRstip = true → k = 1 →
      ∃ t, exec .reset s = .next t ∧
        settled t = ended s { s.h with macValid := false, fsm := .stopped }
          ⟨.error .resetTimeout, .none⟩) ∧
    (s.h.removed = false → f.v.getLsbD s.cfg.window.mbxRstip = true → 1 < k →
      exec .reset s
        = .next { s with seq := .busy { f with n := some (k - 1), point := .rstDelay } })

/-- RESET's own accesses and writes on the way (R214, R149): the function-level reset is posted as a write
of `CTRL` with only `RST` set, unless the device is known to be gone, and flushed (R74); each sample of the
loop is a read of `MBX`; its three delays have no effect (R78); arming writes `MBX_INIT_TIMEOUT` and
`API_BASE`; posting the request leads to `AwaitingPermAddr`; nothing else changes in those steps. -/
def Obligations.ResetWritesOnTheWay : Prop :=
  ∀ (s : State) (f : Frame),
    (At s f .reset .ctrlWrite → s.h.removed = false →
      exec .reset s = .next { s with
        wbuf := s.wbuf ++ [(s.cfg.window.offCtrl, 1#32 <<< s.cfg.window.ctrlRst)]
        seq := .busy { f with point := .ctrlFlush } }) ∧
    (At s f .reset .ctrlWrite → s.h.removed = true →
      exec .reset s = .next { s with seq := .busy { f with point := .ctrlFlush } }) ∧
    (At s f .reset .ctrlFlush →
      exec .reset s = .next { flush s with seq := .busy { f with point := .settle } }) ∧
    (At s f .reset .rstDelay →
      exec .reset s = .next { s with seq := .busy { f with point := .rstSample } }) ∧
    (At s f .reset .replySettle →
      exec .reset s = .next { s with seq := .busy { f with point := .readStart } }) ∧
    (At s f .reset .settle →
      exec .reset s = .next { s with
        seq := .busy { f with n := some s.cfg.rstPollMax, point := .rstSample } }) ∧
    (At s f .reset .rstSample →
      exec .reset s = .next { (regRead .mbx s).2 with
        seq := .busy { f with v := (regRead .mbx s).1, point := .rstTest } }) ∧
    (At s f .reset .arm →
      ∃ t, exec .reset s = .next t ∧
        settled t = { s with
          h := { s.h with mbxTimeout := s.cfg.mbxInitTimeout, apiVersion := s.cfg.apiBase }
          seq := .busy { f with point := .encode } }) ∧
    (At s f .reset .await →
      exec .reset s = .next { s with
        h := { s.h with fsm := .awaitingPermAddr }, seq := .busy { f with point := .replySettle } })

/-- R145: CHECK_FOR_RST reads `MBX` once and returns whether the reset indicator is asserted; it writes
no handle register but `H.removed`, and raises nothing. -/
def Obligations.CheckForRstReturnsIndicator : Prop :=
  ∀ (s : State) (f : Frame) (id : Nat),
    (At s f (.checkForRst id) .indicatorTest →
      exec (.checkForRst id) s
        = .next (ended s s.h ⟨.ok, .indicator (f.v.getLsbD s.cfg.window.mbxRstip)⟩)) ∧
    (At s f (.checkForRst id) .indicatorRead → s.cfg.Ok → s.h.removed = false →
      s.dev.removed = false → s.wbuf = [] →
      ∃ v : Word, v.getLsbD s.cfg.window.mbxRstip = s.dev.rstip ∧
        exec (.checkForRst id) s
          = .next { s with seq := .busy { f with v := v, point := .indicatorTest } }) ∧
    (At s f (.checkForRst id) .indicatorRead →
      exec (.checkForRst id) s
        = .next { (regRead .mbx s).2 with
            seq := .busy { f with v := (regRead .mbx s).1, point := .indicatorTest } }) ∧
    (At s f (.checkForRst id) .indicatorRead → s.h.removed = false → s.dev.removed = true →
      s.wbuf = [] →
      exec (.checkForRst id) s
        = .next { s with
            h := { s.h with removed := true }
            seq := .busy { f with v := 0xFFFFFFFF#32, point := .indicatorTest } }) ∧
    (At s f (.checkForRst id) .indicatorRead → s.h.removed = true →
      exec (.checkForRst id) s
        = .next { s with seq := .busy { f with v := 0xFFFFFFFF#32, point := .indicatorTest } })

/-- CHECK_LINK's two reads, `MBX` first and `LINKS` second, and its errors (R240, R259): on an asserted
reset indicator or a removed device the link is down, the speed unknown, and the status an error that is not
the status of a link that is merely down. -/
def Obligations.CheckLinkReportsErrors : Prop :=
  ∀ (s : State) (f : Frame),
    (At s f .checkLink .indicatorRead →
      exec .checkLink s = .next { (regRead .mbx s).2 with
        seq := .busy { f with v := (regRead .mbx s).1, point := .indicatorTest } }) ∧
    (At s f .checkLink .linksRead →
      exec .checkLink s = .next { (regRead .links s).2 with
        seq := .busy { f with v := (regRead .links s).1, point := .linksTest } }) ∧
    (At s f .checkLink .indicatorTest → s.h.removed = true →
      ∃ t, exec .checkLink s = .next t ∧
        settled t = ended s { s.h with linkUp := false, linkSpeed := .unknown }
          ⟨.error .deviceRemoved, .link false .unknown⟩) ∧
    (At s f .checkLink .indicatorTest → s.h.removed = false →
      f.v.getLsbD s.cfg.window.mbxRstip = true →
      ∃ t, exec .checkLink s = .next t ∧
        settled t = ended s { s.h with linkUp := false, linkSpeed := .unknown }
          ⟨.error .resetInProgress, .link false .unknown⟩) ∧
    (At s f .checkLink .linksTest → s.h.removed = true →
      ∃ t, exec .checkLink s = .next t ∧
        settled t = ended s { s.h with linkUp := false, linkSpeed := .unknown }
          ⟨.error .deviceRemoved, .link false .unknown⟩) ∧
    (At s f .checkLink .indicatorTest → s.h.removed = false →
      f.v.getLsbD s.cfg.window.mbxRstip = false →
      exec .checkLink s = .next { s with seq := .busy { f with point := .linksRead } })

/-- CHECK_LINK's decoding of a `LINKS` sample (R240 to R242): the up bit, and the speed of the three mapped
patterns; for the unmapped pattern the speed is some unconstrained one (each of the four can be drawn: for
each there is a draw that gives it in every such state), the up bit is still reported and the status is
`OK`. -/
def Obligations.CheckLinkDecodesSample : Prop :=
  (∀ (s : State) (f : Frame), At s f .checkLink .linksTest → s.h.removed = false → s.cfg.Ok →
    let field := f.v.extractLsb' s.cfg.window.linksSpeedLo 2
    let up := f.v.getLsbD s.cfg.window.linksUp
    (∀ sp : Speed,
      (field = s.cfg.window.linksSpeed10G ∧ sp = .speed10G ∨
        field = s.cfg.window.linksSpeed1G ∧ sp = .speed1G ∨
        field = s.cfg.window.linksSpeed100M ∧ sp = .speed100M) →
      ∃ t, exec .checkLink s = .next t ∧
        settled t = ended s { s.h with linkUp := up, linkSpeed := sp } ⟨.ok, .link up sp⟩) ∧
    (field ∉ s.cfg.window.speedCodes →
      ∃ (sp : Speed) (tape : List Word) (drawn : Nat) (t : State), exec .checkLink s = .next t ∧
        settled t = ended { s with tape := tape, drawn := drawn }
          { s.h with linkUp := up, linkSpeed := sp } ⟨.ok, .link up sp⟩)) ∧
  ∀ sp : Speed, ∃ w : Word, ∀ (s : State) (f : Frame) (rest : List Word),
    At s f .checkLink .linksTest → s.h.removed = false →
    f.v.extractLsb' s.cfg.window.linksSpeedLo 2 ∉ s.cfg.window.speedCodes → s.tape = w :: rest →
    ∃ t, exec .checkLink s = .next t ∧
      settled t = ended { s with tape := rest }
        { s.h with linkUp := f.v.getLsbD s.cfg.window.linksUp, linkSpeed := sp }
        ⟨.ok, .link (f.v.getLsbD s.cfg.window.linksUp) sp⟩

/-! ## The encoder's steps -/

/-- The request rows without an address (R106, R110, R116, R118, R120): at the encode point of a command
that sends the message, `MSG` takes its words, word 0 is kept, WRITE_POSTED is next, and nothing else
changes. (That a request row is read as this step of its command is the model's, assumption 9.) -/
def Obligations.PlainRequestsAreStaged : Prop :=
  ∀ (s : State) (f : Frame) (r : Instr), s.seq = .busy f → f.todo = [] → f.point = .encode →
    f.req = some r →
    let stages (ws : List Word) : Prop := ∃ t, exec r s = .next t ∧ settled t = staged s f ws
    (r = .resetReq → stages [s.cfg.codes.opReset]) ∧
    (r = .getRetaReq → stages [s.cfg.codes.opGetReta]) ∧
    (r = .getRssKeyReq → stages [s.cfg.codes.opGetRssKey]) ∧
    (∀ v, r = .apiNegotiateReq v → stages [s.cfg.codes.opApiNegotiate, v, 0#32]) ∧
    (∀ vlanId vlanOn, r = .setVlanReq vlanId vlanOn →
      stages [s.cfg.codes.opSetVlan ||| (if vlanOn then 1#32 <<< s.cfg.codes.infoShift else 0#32),
        vlanId.setWidth 32])

/-- The request rows with an address or vectors (R108, R112, R114): the words are the opcode with its info
field, then the little-endian address, or zeros for a clear-list request, or two zero-extended vectors to
a word. (That a request row is read as this step of its command is the model's, assumption 9.) -/
def Obligations.AddressRequestsAreStaged : Prop :=
  ∀ (s : State) (f : Frame) (r : Instr), s.seq = .busy f → f.todo = [] → f.point = .encode →
    f.req = some r →
    let stages (ws : List Word) : Prop := ∃ t, exec r s = .next t ∧ settled t = staged s f ws
    (∀ a : MacAddr, r = .setMacReq a →
      stages [s.cfg.codes.opSetMacAddr, a.a3 ++ a.a2 ++ a.a1 ++ a.a0, 0#16 ++ a.a5 ++ a.a4]) ∧
    (∀ (x : Word) (a : MacAddr), r = .setMacvlanReq x a → x ≠ 0#32 →
      stages [s.cfg.codes.opSetMacvlan ||| (x <<< s.cfg.codes.infoShift),
        a.a3 ++ a.a2 ++ a.a1 ++ a.a0, 0#16 ++ a.a5 ++ a.a4]) ∧
    (∀ a : MacAddr, r = .setMacvlanReq 0#32 a →
      stages [s.cfg.codes.opSetMacvlan, 0#32, 0#32]) ∧
    (∀ vs : List (BitVec 12), r = .setMulticastReq vs → vs.length ≤ 30 →
      stages ((s.cfg.codes.opSetMulticast ||| (BitVec.ofNat 32 vs.length <<< s.cfg.codes.infoShift))
        :: pack16 (vs.map fun v => v.setWidth 16)))

/-- UPDATE_MC's hash loop (R176): the request carries one vector for each of the first 30 addresses, in
list order, and an invalid filter type emits one diagnostic for each; nothing else changes. -/
def Obligations.UpdateMcHashesFirstThirty : Prop :=
  ∀ (s : State) (f : Frame) (list : List MacAddr), At s f (.updateMc list) .hash →
    f.req = some (.setMulticastReq []) →
    ∃ t, exec (.updateMc list) s = .next t ∧ settled t = { s with
      diag := s.diag ++ (if s.h.mcFilterType.toNat ≤ 3 then []
        else List.replicate (min list.length 30) (.badFilterType s.h.mcFilterType))
      seq := .busy { f with
        point := .encode
        req := some (.setMulticastReq
          ((list.take 30).map fun a => mtaWindow a s.h.mcFilterType)) } }

/-! ## The decoder's steps -/

/-- SET_MAC's interpretation of a reply (R173): accepted, the requested address becomes current; refused,
the permanent one does (unconstrained while `H.mac_valid = 0`: each address can be drawn) and the status is
Nacked; any other word is ProtocolMismatch and changes no register. -/
def Obligations.SetMacInterpretsReply : Prop :=
  ∀ (s : State) (f : Frame) (a : MacAddr), At s f (.setMac a) .decode → s.cfg.codes.Ok →
    f.req0 &&& s.cfg.codes.flagMask = 0#32 →
    let reply := word0 s.msg &&& ~~~s.cfg.codes.flagCts
    (reply = f.req0 ||| s.cfg.codes.flagAck → ∃ t, exec (.setMac a) s = .next t ∧
      settled t = ended s { s.h with curAddr := a } ⟨.ok, .none⟩) ∧
    (reply = f.req0 ||| s.cfg.codes.flagNack → s.h.macValid = true →
      ∃ t, exec (.setMac a) s = .next t ∧
        settled t = ended s { s.h with curAddr := s.h.permAddr } ⟨.error .nacked, .none⟩) ∧
    (reply = f.req0 ||| s.cfg.codes.flagNack → s.h.macValid = false →
      ∃ (b : MacAddr) (tape : List Word) (drawn : Nat) (t : State), exec (.setMac a) s = .next t ∧
        settled t = ended { s with tape := tape, drawn := drawn } { s.h with curAddr := b }
          ⟨.error .nacked, .none⟩) ∧
    (reply = f.req0 ||| s.cfg.codes.flagNack → s.h.macValid = false →
      ∀ (b : MacAddr) (rest : List Word), s.tape = (pack48 b).1 :: (pack48 b).2 :: rest →
      ∃ t, exec (.setMac a) s = .next t ∧
        settled t = ended { s with tape := rest } { s.h with curAddr := b }
          ⟨.error .nacked, .none⟩) ∧
    (reply ≠ f.req0 ||| s.cfg.codes.flagAck → reply ≠ f.req0 ||| s.cfg.codes.flagNack →
      ∃ t, exec (.setMac a) s = .next t ∧
        settled t = ended s s.h ⟨.error .protocolMismatch, .none⟩)

/-- SET_MACVLAN's and NEGOTIATE_API's interpretation of a reply (R177, R180): `OK`, Nacked or
ProtocolMismatch by the classification; only an accepted negotiation writes a register, the version of
the reply's word 1. -/
def Obligations.MacvlanAndNegotiateInterpretReply : Prop :=
  ∀ (s : State) (f : Frame) (c : Instr), At s f c .decode → s.cfg.codes.Ok →
    f.req0 &&& s.cfg.codes.flagMask = 0#32 →
    let reply := word0 s.msg &&& ~~~s.cfg.codes.flagCts
    let ends (h : Handle) (status : Status) : Prop :=
      ∃ t, exec c s = .next t ∧ settled t = ended s h ⟨status, .none⟩
    ((∃ x a, c = .setMacvlan x a) ∨ (∃ v, c = .negotiateApi v) →
      (reply = f.req0 ||| s.cfg.codes.flagNack → ends s.h (.error .nacked)) ∧
      (reply ≠ f.req0 ||| s.cfg.codes.flagAck → reply ≠ f.req0 ||| s.cfg.codes.flagNack →
        ends s.h (.error .protocolMismatch))) ∧
    (∀ x a, c = .setMacvlan x a → reply = f.req0 ||| s.cfg.codes.flagAck → ends s.h .ok) ∧
    (∀ v, c = .negotiateApi v → reply = f.req0 ||| s.cfg.codes.flagAck →
      ends { s.h with apiVersion := s.msg.getD 1 0#32 } .ok)

/-- GET_RETA's and GET_RSS_KEY's interpretation of a reply (R178, R179): on SUCCESS the table or the key is
taken from the payload words and returned; on FAILURE PermissionDenied; on any other word
ProtocolMismatch; only success writes a register. -/
def Obligations.QueriesInterpretReply : Prop :=
  ∀ (s : State) (f : Frame) (c : Instr), At s f c .decode → s.cfg.codes.Ok →
    f.req0 &&& s.cfg.codes.flagMask = 0#32 →
    let reply := word0 s.msg &&& ~~~s.cfg.codes.flagCts
    let ends (h : Handle) (r : Result) : Prop := ∃ t, exec c s = .next t ∧ settled t = ended s h r
    (c = .getReta ∨ c = .getRssKey →
      (reply = f.req0 ||| s.cfg.codes.flagFailure → ends s.h ⟨.error .permissionDenied, .none⟩) ∧
      (reply ≠ f.req0 ||| s.cfg.codes.flagSuccess → reply ≠ f.req0 ||| s.cfg.codes.flagFailure →
        ends s.h ⟨.error .protocolMismatch, .none⟩)) ∧
    (c = .getReta → s.h.reta.length = 128 → reply = f.req0 ||| s.cfg.codes.flagSuccess →
      ends { s.h with reta := retaOf (payloadWords 8 s.msg) }
        ⟨.ok, .reta (retaOf (payloadWords 8 s.msg))⟩) ∧
    (c = .getRssKey → reply = f.req0 ||| s.cfg.codes.flagSuccess →
      ends { s.h with rssKey := keyBytes (payloadWords 10 s.msg) }
        ⟨.ok, .rssKey (keyBytes (payloadWords 10 s.msg))⟩)

/-- SET_VLAN and UPDATE_MC do not look at the reply (R174, R176, R303): whatever `MSG` holds, and whichever
reply row of the table it is, a NACK too, they return `OK` and change nothing else. (Reply rows as steps: the
model's reading, assumption 9.) -/
def Obligations.UninspectedRepliesReturnOk : Prop :=
  ∀ (s : State) (f : Frame) (c : Instr), At s f c .decode →
    ((∃ vlanId vlanOn, c = .setVlan vlanId vlanOn) ∨ (∃ list, c = .updateMc list)) →
    let succeeds (i : Instr) : Prop :=
      ∃ t, exec i s = .next t ∧ settled t = ended s s.h ⟨.ok, .none⟩
    succeeds c ∧
    ∀ (cts b : Bool) (n : BitVec 5),
      succeeds (.setVlanAck cts b) ∧ succeeds (.setVlanNack cts b) ∧
      succeeds (.setMulticastAck cts n) ∧ succeeds (.setMulticastNack cts n)

/-- The reply rows of RESET and SET_MAC (R107, R109) at the decode point of their command: the reset reply
installs its address and type, SET_MAC's ACK the requested address, SET_MAC's NACK the permanent one
(unconstrained while `H.mac_valid = 0`: each address can be drawn), with or without `FLAG_CTS`. (That a reply
row is read as this step of its command is the model's, assumption 9.) -/
def Obligations.AddressRepliesComplete : Prop :=
  ∀ (s : State) (f : Frame) (cts : Bool), s.cfg.codes.Ok →
    (At s f .reset .decode → ∀ (p : MacAddr) (ty : Word),
      ∃ t, exec (.resetAck cts p ty) s = .next t ∧
        settled t = ended s
          { s.h with permAddr := p, mcFilterType := ty, macValid := true, fsm := .ready }
          ⟨.ok, .none⟩) ∧
    (∀ a, At s f (.setMac a) .decode → f.req0 = s.cfg.codes.opSetMacAddr →
      (∃ t, exec (.setMacAck cts) s = .next t ∧
        settled t = ended s { s.h with curAddr := a } ⟨.ok, .none⟩) ∧
      (s.h.macValid = true → ∃ t, exec (.setMacNack cts) s = .next t ∧
        settled t = ended s { s.h with curAddr := s.h.permAddr } ⟨.error .nacked, .none⟩) ∧
      (s.h.macValid = false → ∃ (b : MacAddr) (tape : List Word) (drawn : Nat) (t : State),
        exec (.setMacNack cts) s = .next t ∧
        settled t = ended { s with tape := tape, drawn := drawn } { s.h with curAddr := b }
          ⟨.error .nacked, .none⟩) ∧
      (s.h.macValid = false → ∀ (b : MacAddr) (rest : List Word),
        s.tape = (pack48 b).1 :: (pack48 b).2 :: rest →
        ∃ t, exec (.setMacNack cts) s = .next t ∧
          settled t = ended { s with tape := rest } { s.h with curAddr := b }
            ⟨.error .nacked, .none⟩))

/-- The reply rows of SET_MACVLAN, NEGOTIATE_API and the two queries (R115, R117, R119, R121) at the decode
point of their command; a MACVLAN reply that does not echo the index is a mismatch. (Reply rows as steps:
the model's reading, assumption 9.) -/
def Obligations.VerdictRepliesComplete : Prop :=
  ∀ (s : State) (f : Frame) (cts : Bool), s.cfg.codes.Ok →
    let ends (i : Instr) (h : Handle) (r : Result) : Prop :=
      ∃ t, exec i s = .next t ∧ settled t = ended s h r
    (∀ x a, At s f (.setMacvlan x a) .decode →
      f.req0 = s.cfg.codes.opSetMacvlan ||| (x <<< s.cfg.codes.infoShift) →
      x.toNat < 2 ^ s.cfg.codes.infoWidth →
      ends (.setMacvlanAck cts x) s.h ⟨.ok, .none⟩ ∧
      ends (.setMacvlanNack cts x) s.h ⟨.error .nacked, .none⟩ ∧
      ∀ y, y ≠ x → y.toNat < 2 ^ s.cfg.codes.infoWidth →
        ends (.setMacvlanAck cts y) s.h ⟨.error .protocolMismatch, .none⟩ ∧
        ends (.setMacvlanNack cts y) s.h ⟨.error .protocolMismatch, .none⟩) ∧
    (∀ v, At s f (.negotiateApi v) .decode → f.req0 = s.cfg.codes.opApiNegotiate →
      (∀ u, ends (.apiNegotiateAck cts u) { s.h with apiVersion := u } ⟨.ok, .none⟩) ∧
      ends (.apiNegotiateNack cts) s.h ⟨.error .nacked, .none⟩) ∧
    (At s f .getReta .decode → f.req0 = s.cfg.codes.opGetReta →
      (∀ ws : List Word, ws.length = 8 → s.h.reta.length = 128 →
        ends (.getRetaSuccess cts ws) { s.h with reta := retaOf ws } ⟨.ok, .reta (retaOf ws)⟩) ∧
      ends (.getRetaFailure cts) s.h ⟨.error .permissionDenied, .none⟩) ∧
    (At s f .getRssKey .decode → f.req0 = s.cfg.codes.opGetRssKey →
      (∀ ws : List Word, ws.length = 10 →
        ends (.getRssKeySuccess cts ws) { s.h with rssKey := keyBytes ws }
          ⟨.ok, .rssKey (keyBytes ws)⟩) ∧
      ends (.getRssKeyFailure cts) s.h ⟨.error .permissionDenied, .none⟩)

/-- A reply row of another operation is a mismatch for the five operations that look at the reply, SET_MAC,
SET_MACVLAN, NEGOTIATE_API, GET_RETA and GET_RSS_KEY, and changes no register (R124, R252); for RESET it is an
invalid address (R258); SET_VLAN and UPDATE_MC return `OK` whatever the row is (R303). (Reply rows as steps:
the model's reading, assumption 9.) -/
def Obligations.ForeignRepliesMismatch : Prop :=
  ∀ (s : State) (f : Frame) (r : Instr), s.cfg.codes.Ok → r.group = .reply →
    let mismatches : Prop :=
      ∃ t, exec r s = .next t ∧ settled t = ended s s.h ⟨.error .protocolMismatch, .none⟩
    (∀ a, At s f (.setMac a) .decode → f.req0 = s.cfg.codes.opSetMacAddr →
      (∀ cts, r ≠ .setMacAck cts ∧ r ≠ .setMacNack cts) → mismatches) ∧
    (∀ x a, At s f (.setMacvlan x a) .decode →
      f.req0 = s.cfg.codes.opSetMacvlan ||| (x <<< s.cfg.codes.infoShift) →
      x.toNat < 2 ^ s.cfg.codes.infoWidth →
      (∀ cts y, r ≠ .setMacvlanAck cts y ∧ r ≠ .setMacvlanNack cts y) → mismatches) ∧
    (∀ v, At s f (.negotiateApi v) .decode → f.req0 = s.cfg.codes.opApiNegotiate →
      (∀ cts u, r ≠ .apiNegotiateAck cts u ∧ r ≠ .apiNegotiateNack cts) → mismatches) ∧
    (At s f .getReta .decode → f.req0 = s.cfg.codes.opGetReta →
      (∀ cts ws, r ≠ .getRetaSuccess cts ws ∧ r ≠ .getRetaFailure cts) → mismatches) ∧
    (At s f .getRssKey .decode → f.req0 = s.cfg.codes.opGetRssKey →
      (∀ cts ws, r ≠ .getRssKeySuccess cts ws ∧ r ≠ .getRssKeyFailure cts) → mismatches) ∧
    (At s f .reset .decode → (∀ cts p ty, r ≠ .resetAck cts p ty) →
      ∃ t, exec r s = .next t ∧ settled t = ended s { s.h with macValid := false, fsm := .ready }
        ⟨.error .invalidMacAddr, .none⟩) ∧
    ∀ c, ((∃ vlanId vlanOn, c = .setVlan vlanId vlanOn) ∨ (∃ list, c = .updateMc list)) →
      At s f c .decode → ∃ t, exec r s = .next t ∧ settled t = ended s s.h ⟨.ok, .none⟩

/-! ## The transport -/

/-- R140: the budget of a poll is `UNARMED_BUDGET` while the timeout is not armed, else the timeout; each of
the three polls (the lock of a post, the reply, the lock of a read) reads the timeout as a step of its own
before its first iteration. -/
def Obligations.BudgetOfPolls : Prop :=
  (∀ u, budget u 0#32 = u) ∧ (∀ u t, t ≠ 0#32 → budget u t = some t.toNat) ∧
  ∀ (s : State) (f : Frame) (c : Instr), usesTransport c = true →
    (∀ u, At s f c (.lockBudget u) → exec c s = .next { s with seq := .busy { f with
      n := budget s.cfg.unarmedBudget s.h.mbxTimeout, point := .lockWrite u } }) ∧
    (At s f c .pollBudget → exec c s = .next { s with seq := .busy { f with
      n := budget s.cfg.unarmedBudget s.h.mbxTimeout, point := .pollRead } })

/-- The register accesses of WRITE_POSTED and READ_POSTED that write (R141, R143, R144): each appends one
posted write, unless the device is known to be gone (R62), and changes nothing else but the sequencer. -/
def Obligations.TransportPostsWrites : Prop :=
  ∀ (s : State) (f : Frame) (c : Instr), usesTransport c = true →
    let posted (off : Nat) (w : Word) : List (Nat × Word) :=
      if s.h.removed = true then s.wbuf else s.wbuf ++ [(off, w)]
    (∀ u, At s f c (.lockWrite u) → exec c s = .next { s with
      wbuf := posted s.cfg.window.offMbx (1#32 <<< s.cfg.window.mbxVfu)
      seq := .busy { f with point := .lockRead u } }) ∧
    (At s f c .postReq → exec c s = .next { s with
      wbuf := posted s.cfg.window.offMbx (1#32 <<< s.cfg.window.mbxReq)
      seq := .busy { f with point := .postFlush } }) ∧
    (At s f c .ackWrite → exec c s = .next { s with
      wbuf := posted s.cfg.window.offMbx (1#32 <<< s.cfg.window.mbxAck)
      seq := .busy { f with point := .ackFlush } }) ∧
    (At s f c .copyOut → (∀ m n d, c ≠ .writePosted m n d) → exec c s = .next { s with
      wbuf := posted (s.cfg.window.offMbmem + 4 * f.i) (s.msg.getD f.i 0#32)
      seq := .busy { f with
        i := f.i + 1, point := if f.i + 1 < f.reqLen then .copyOut else .postReq } }) ∧
    (∀ m n d, At s f c .copyOut → c = .writePosted m n d → exec c s = .next { s with
      wbuf := posted (s.cfg.window.offMbmem + 4 * f.i) (m.getD f.i 0#32)
      seq := .busy { f with
        i := f.i + 1, point := if f.i + 1 < f.reqLen then .copyOut else .postReq } })

/-- The exits of a poll iteration, in the order of R261: removed, then reset, then the awaited bit, then
the exhausted budget. A transport error ends the command with that error, writes no handle register
(RESET: `H.mac_valid <- 0`, `Ready`), and writes no device register (R141, R142, R172). So `MBX.VFU` stays set
where the device has granted the lock before the raise, be it that the sample which shows the lock shows a
reset too, or that the device was removed after a drain granted the lock; R141's remark says that it is 0 when
AcquireLock raises: that clause is the model's choice (assumption 23). -/
def Obligations.PollExitPriority : Prop :=
  ∀ (s : State) (f : Frame) (c : Instr) (p : Point), usesTransport c = true → At s f c p →
    (p = .lockTest .post ∨ p = .lockTest .read ∨ p = .pollTest) →
    let fails (e : ErrorKind) : Prop := ∃ t, exec c s = .next t ∧ (settled t).seq = .idle ∧
      (settled t).result = some ⟨.error e, .none⟩ ∧ (settled t).dev = s.dev ∧
      (settled t).wbuf = s.wbuf ∧ (settled t).refusalMark = s.refusalMark ∧
      (settled t).h = (if c = .reset then { s.h with macValid := false, fsm := .ready } else s.h)
    let awaited : Prop :=
      f.v.getLsbD (if p = .pollTest then s.cfg.window.mbxPfsts else s.cfg.window.mbxVfu) = true
    let resets : Bool := f.v.getLsbD s.cfg.window.mbxRstip
    (s.h.removed = true → fails .deviceRemoved) ∧
    (s.h.removed = false → resets = true → fails .resetInProgress) ∧
    (s.h.removed = false → resets = false → awaited →
      exec c s = .next (s.setFrame
        (if p = .pollTest then { f with point := .lockBudget .read }
        else { f with i := 0, point := if p = .lockTest .post then .copyOut else .copyIn }))) ∧
    (s.h.removed = false → resets = false → ¬ awaited → f.n = some 1 →
      fails .transportTimeout) ∧
    (∀ k, s.h.removed = false → resets = false → ¬ awaited → f.n = some (k + 2) →
      exec c s = .next { s with seq := .busy { f with
        n := some (k + 1)
        point := if p = .pollTest then .pollDelay
          else if p = .lockTest .post then .lockDelay .post else .lockDelay .read } }) ∧
    (s.h.removed = false → resets = false → ¬ awaited → f.n = none →
      exec c s = .next { s with seq := .busy { f with
        point := if p = .pollTest then .pollDelay
          else if p = .lockTest .post then .lockDelay .post else .lockDelay .read } })

/-- A failed READ_POSTED leaves its buffer and `MSG` unspecified and everything else of both buffers as it was
(R36, R144, R146, R263): the first `len` words of the buffer it reads into take any content that is drawn, and
so do those of `MSG` where a raw READ_POSTED reads into the Host's buffer; the words from `len` on are unchanged,
and a command other than a raw READ_POSTED leaves the Host's buffer alone. A failed WRITE_POSTED changes neither
buffer. That a raw READ_POSTED reads into a buffer of the Host's, which is drawn before `MSG`, and that R263 means
the words of `MSG` that R36 names, is the model's choice (assumption 31). -/
def Obligations.FailedReadScramblesBufferAndMsg : Prop :=
  ∀ (s t : State) (f : Frame) (c : Instr) (p : Point) (e : ErrorKind), usesTransport c = true →
    At s f c p → exec c s = .next t → (settled t).seq = .idle →
    (settled t).result = some ⟨.error e, .none⟩ →
    (isPostPoint p = true → (settled t).msg = s.msg ∧ (settled t).hostBuf = s.hostBuf) ∧
    (isReadPoint p = true →
      (∀ j, f.rspLen ≤ j →
        (settled t).msg[j]? = s.msg[j]? ∧ (settled t).hostBuf[j]? = s.hostBuf[j]?) ∧
      ((∀ n d, c ≠ .readPosted n d) → (settled t).hostBuf = s.hostBuf ∧
        ∀ (ws more : List Word) (j : Nat), s.tape = ws ++ more → ws.length = f.rspLen →
          j < f.rspLen → j < s.msg.length → (settled t).msg[j]? = ws[j]?) ∧
      ((∃ n d, c = .readPosted n d) →
        ∀ (ws vs more : List Word) (j : Nat), s.tape = ws ++ vs ++ more → ws.length = f.rspLen →
          vs.length = f.rspLen → j < f.rspLen →
          (j < s.hostBuf.length → (settled t).hostBuf[j]? = ws[j]?) ∧
          (j < s.msg.length → (settled t).msg[j]? = vs[j]?)))

/-- The removal tests of the two contracts and the end of WRITE_POSTED (R143, R144, R146). WRITE_POSTED and
READ_POSTED begin with the test, the copy loop of READ_POSTED makes it after every word, and both end with
it: on a device found gone each raises DeviceRemoved, writing no handle register (RESET: `H.mac_valid <- 0`,
`Ready`). With the device present each contract goes on to its budget; at the end of WRITE_POSTED a
WRITE_POSTED command returns `OK`, RESET goes on to wait for the reply, and every other command goes on to
READ_POSTED. -/
def Obligations.PostingEnds : Prop :=
  ∀ (s : State) (f : Frame) (c : Instr), usesTransport c = true →
    (∀ p, At s f c p →
      (p = .postStart ∨ p = .postDone ∨ p = .readStart ∨ p = .copyInTest ∨ p = .readDone) →
      s.h.removed = true → ∃ t, exec c s = .next t ∧ (settled t).seq = .idle ∧
        (settled t).result = some ⟨.error .deviceRemoved, .none⟩ ∧ (settled t).dev = s.dev ∧
        (settled t).wbuf = s.wbuf ∧
        (settled t).h = if c = .reset then { s.h with macValid := false, fsm := .ready } else s.h) ∧
    (At s f c .postStart → s.h.removed = false →
      exec c s = .next { s with seq := .busy { f with point := .lockBudget .post } }) ∧
    (At s f c .readStart → s.h.removed = false →
      exec c s = .next { s with seq := .busy { f with point := .pollBudget } }) ∧
    (At s f c .postDone → s.h.removed = false →
      (∀ m n d, c = .writePosted m n d → ∃ t, exec c s = .next t ∧
        settled t = ended s s.h ⟨.ok, .none⟩) ∧
      (c = .reset → exec c s = .next { s with seq := .busy { f with point := .await } }) ∧
      (c ≠ .reset → (∀ m n d, c ≠ .writePosted m n d) →
        exec c s = .next { s with seq := .busy { f with point := .readStart } }))

/-- READ_POSTED's reads, its copy and its end (R72, R144, R146), and the delays and flushes of both contracts:
a delay has no effect and leads back to the next attempt (R78), the flushes after the `REQ` and `ACK` writes
are reads of `STATUS` that lead to the last removal test (R63, R74). The polls sample `MBX`, the copy samples
`MBMEM[i]`, each sampled word goes to word `i` of the buffer (the Host's for a READ_POSTED command, else
`MSG`) until `len` words are read; at the end a READ_POSTED command returns the words it read, EXCHANGE
returns `OK`, and an operation or RESET goes on to interpret the reply; nothing else changes.
That a READ_POSTED command reads into a buffer of the Host's and not into `MSG` is the model's choice (assumption
31). -/
def Obligations.ReadingCopiesAndEnds : Prop :=
  ∀ (s : State) (f : Frame) (c : Instr), usesTransport c = true →
    (At s f c .pollRead → exec c s = .next { (regRead .mbx s).2 with
      seq := .busy { f with v := (regRead .mbx s).1, point := .pollTest } }) ∧
    (∀ u, At s f c (.lockRead u) → exec c s = .next { (regRead .mbx s).2 with
      seq := .busy { f with v := (regRead .mbx s).1, point := .lockTest u } }) ∧
    (∀ u, At s f c (.lockDelay u) →
      exec c s = .next { s with seq := .busy { f with point := .lockWrite u } }) ∧
    (At s f c .pollDelay → exec c s = .next { s with seq := .busy { f with point := .pollRead } }) ∧
    (At s f c .postFlush →
      exec c s = .next { flush s with seq := .busy { f with point := .postDone } }) ∧
    (At s f c .ackFlush →
      exec c s = .next { flush s with seq := .busy { f with point := .readDone } }) ∧
    (At s f c .copyIn → exec c s = .next { (regRead (.mbmem f.i) s).2 with
      seq := .busy { f with v := (regRead (.mbmem f.i) s).1, point := .copyStore } }) ∧
    (At s f c .copyStore →
      (∀ n d, c = .readPosted n d → exec c s = .next { s with
        hostBuf := s.hostBuf.set f.i f.v, seq := .busy { f with point := .copyInTest } }) ∧
      ((∀ n d, c ≠ .readPosted n d) → exec c s = .next { s with
        msg := s.msg.set f.i f.v, seq := .busy { f with point := .copyInTest } })) ∧
    (At s f c .copyInTest → s.h.removed = false → exec c s = .next { s with
      seq := .busy { f with
        i := f.i + 1, point := if f.i + 1 < f.rspLen then .copyIn else .ackWrite } }) ∧
    (At s f c .readDone → s.h.removed = false →
      (∀ n d, c = .readPosted n d → ∃ t, exec c s = .next t ∧
        settled t = ended s s.h ⟨.ok, .words (s.hostBuf.take n)⟩) ∧
      (∀ a b, c = .exchange a b → ∃ t, exec c s = .next t ∧
        settled t = ended s s.h ⟨.ok, .none⟩) ∧
      (isOperation c = true ∨ c = .reset →
        exec c s = .next { s with seq := .busy { f with point := .decode } }))

/-- WRITE_POSTED on a free buffer (R143, and the spec's vector T1): when nothing else moves, the message
reaches the end of the copy and the flush with `MBMEM[0..len-1]` holding its words, every other word as
before, `req_pending` set, the lock released, and no reply indication changed. -/
def Obligations.PostedMessageIsDelivered : Prop :=
  ∀ (s : State) (msg : List Word), s.cfg.Ok → s.seq = .idle → s.sched = [] → s.wbuf = [] →
    1 ≤ msg.length → msg.length ≤ s.cfg.mbxSize → s.h.removed = false → s.dev.removed = false →
    s.dev.rstip = false → s.dev.pfu = false → Memory.wf s.dev.mbmem = true →
    ∃ (s1 t : State) (f : Frame) (k : Nat),
      exec (.writePosted msg msg.length 0) s = .next s1 ∧ Reaches k s1 t ∧
      At t f (.writePosted msg msg.length 0) .postDone ∧ t.wbuf = [] ∧
      (∀ j, j < msg.length → t.dev.mbmemWord s.cfg.window j = msg.getD j 0#32) ∧
      (∀ j, msg.length ≤ j →
        t.dev.mbmemWord s.cfg.window j = s.dev.mbmemWord s.cfg.window j) ∧
      t.dev.reqPending = true ∧ t.dev.vfu = false ∧ t.dev.pfsts = s.dev.pfsts ∧
      t.h = { s.h with removed := t.h.removed }

/-! ## The device and the other agents -/

/-- R71: what a write of `w` to `MBX` does at the device, and what a read of `MBX` returns. -/
def Obligations.MbxWriteSemantics : Prop :=
  (∀ (win : Config.Window) (w : Word) (d : Device),
    (applyMbx win w d).reqPending = (d.reqPending || w.getLsbD win.mbxReq) ∧
    (applyMbx win w d).pfsts = (d.pfsts && !w.getLsbD win.mbxAck) ∧
    (applyMbx win w d).ackPending = (d.ackPending || w.getLsbD win.mbxAck) ∧
    (applyMbx win w d).vfu = (w.getLsbD win.mbxVfu && !d.pfu) ∧
    applyMbx win w d = { d with
      reqPending := (applyMbx win w d).reqPending
      pfsts := (applyMbx win w d).pfsts
      ackPending := (applyMbx win w d).ackPending
      vfu := (applyMbx win w d).vfu }) ∧
  ∀ s : State, s.cfg.Ok → s.dev.removed = false →
    (sampleReg .mbx s).2 = s ∧
    ∀ k, (sampleReg .mbx s).1.getLsbD k
      = ((k == s.cfg.window.mbxVfu && s.dev.vfu) || (k == s.cfg.window.mbxPfu && s.dev.pfu)
        || (k == s.cfg.window.mbxPfsts && s.dev.pfsts)
        || (k == s.cfg.window.mbxRstip && s.dev.rstip))

/-- The posted writes (R62, R79): a `RegWrite` appends one entry unless the device is known to be gone, and
`Dev-drain` removes the oldest entry and applies it: a word of `MBMEM`, `INT_MASK` and the queue registers
take the value, `MBX` and `CTRL` do as R71 and R82 say; `STATUS`, `LINKS` and offsets of no register take
nothing; a removed device takes nothing. `Dev-remove` marks the device removed. -/
def Obligations.DrainAppliesOldestWrite : Prop :=
  (∀ (r : Reg) (v : Word) (s : State),
    (s.h.removed = false → regWrite r v s = { s with wbuf := s.wbuf ++ [(r.offset s.cfg, v)] }) ∧
    (s.h.removed = true → regWrite r v s = s)) ∧
  (∀ s : State, devMove .remove s = { s with dev := { s.dev with removed := true } } ∧
    ∀ d rest, s.sched = .dev d :: rest → step s = .next (devMove d { s with sched := rest })) ∧
  ∀ (s : State) (off : Nat) (v : Word) (rest : List (Nat × Word)), s.cfg.Ok →
    s.wbuf = (off, v) :: rest →
    (s.dev.removed = true → devMove .drain s = { s with wbuf := rest }) ∧
    (s.dev.removed = false →
      (∀ i, i < s.cfg.mbxSize → off = s.cfg.window.offMbmem + 4 * i →
        devMove .drain s = { s with
          wbuf := rest, dev := s.dev.setMbmemWord s.cfg.window i v }) ∧
      (off = s.cfg.window.offIntMask → devMove .drain s = { s with
        wbuf := rest, dev := { s.dev with intMask := v } }) ∧
      (∀ q, s.cfg.window.offRxdctl[q]? = some off → devMove .drain s = { s with
        wbuf := rest, dev := { s.dev with
          queues := (s.dev.queues.modify q fun x => ⟨v, x.txdctl⟩) } }) ∧
      (∀ q, s.cfg.window.offTxdctl[q]? = some off → devMove .drain s = { s with
        wbuf := rest, dev := { s.dev with
          queues := (s.dev.queues.modify q fun x => ⟨x.rxdctl, v⟩) } }) ∧
      (off = s.cfg.window.offMbx → devMove .drain s = { s with
        wbuf := rest, dev := applyMbx s.cfg.window v s.dev }) ∧
      (off = s.cfg.window.offCtrl → v.getLsbD s.cfg.window.ctrlRst = true →
        devMove .drain s = functionLevelReset { s with wbuf := rest }) ∧
      (off = s.cfg.window.offCtrl → v.getLsbD s.cfg.window.ctrlRst = false →
        devMove .drain s = { s with wbuf := rest }) ∧
      (off = s.cfg.window.offStatus ∨ off = s.cfg.window.offLinks ∨
          off = s.cfg.window.offIntCause ∨ off ∉ s.cfg.window.offsets s.cfg.mbxSize →
        devMove .drain s = { s with wbuf := rest }))

/-- R82: the function-level reset, when a write of `CTRL` with `RST = 1` is applied: `VFU`, `PFSTS`,
`req_pending`, `ack_pending`, `INT_MASK` and every queue enable are cleared, `RSTIP` is set, `MBMEM` is
unspecified (each content can be drawn, and the memory is canonical), and `PFU`, `LINKS` and the block's own
state are not changed. That the other bits of the queue registers are not changed either is the model's
reading (assumption 39). `CTRL.RST` always reads 0. A register read applies the write the same way, and the
writes behind it afterwards in order. -/
def Obligations.FunctionLevelReset : Prop :=
  (∀ s : State, s.dev.removed = false →
    (sampleReg .ctrl s).1.getLsbD s.cfg.window.ctrlRst = false) ∧
  (∀ s : State, drainAll s = drainAll (devMove .drain s)) ∧
  ∀ (s : State) (v : Word) (rest : List (Nat × Word)), s.cfg.Ok →
    s.wbuf = (s.cfg.window.offCtrl, v) :: rest → s.dev.removed = false →
    v.getLsbD s.cfg.window.ctrlRst = true → Memory.wf s.dev.mbmem = true →
    (∀ ws more : List Word, ws.length = s.cfg.mbxSize → s.tape = ws ++ more →
      ∀ i, i < s.cfg.mbxSize →
        (devMove .drain s).dev.mbmemWord s.cfg.window i = ws.getD i 0#32) ∧
    ∃ (m : Memory) (tape : List Word) (drawn : Nat), Memory.wf m = true ∧
      devMove .drain s = { s with
        wbuf := rest
        tape := tape
        drawn := drawn
        dev := { s.dev with
          vfu := false
          pfsts := false
          rstip := true
          reqPending := false
          ackPending := false
          intMask := 0#32
          queues := s.dev.queues.map fun x =>
            ⟨x.rxdctl &&& ~~~(1#32 <<< s.cfg.window.dctlEnable),
              x.txdctl &&& ~~~(1#32 <<< s.cfg.window.dctlEnable)⟩
          mbmem := m } }

/-- `RegRead` and `Flush` (R61, R63, R64): every posted write is applied before the sample, so that device
and value are those after the drain; once the block knows of a removal there is no device access and the
value is all-ones; a removed device is found out; an all-ones data word alone does not mark the device
removed, it does so exactly when `STATUS` reads all-ones too; a read of `STATUS` itself returns what is drawn
and marks a present device removed exactly when that is all-ones (R302). A read writes no handle register but
`H.removed`. A read of a present device returns the register: `LINKS` (R42), `INT_MASK`, the queue registers
(R46); and when that is not all-ones it changes nothing. -/
def Obligations.RegReadDrainsAndDetectsRemoval : Prop :=
  ∀ (s : State) (r : Reg),
    (s.h.removed = true → regRead r s = (0xFFFFFFFF#32, s) ∧ flush s = s) ∧
    (s.h.removed = false →
      (regRead r s).2.wbuf = [] ∧ (flush s).wbuf = [] ∧
      (regRead r s).2.dev = (drainAll s).dev ∧ (flush s).dev = (drainAll s).dev ∧
      (regRead r s).1 = (sampleReg r (drainAll s)).1) ∧
    (s.h.removed = false → s.dev.removed = true →
      (regRead r s).1 = 0xFFFFFFFF#32 ∧ (regRead r s).2.h = { s.h with removed := true }) ∧
    (s.h.removed = false → s.dev.removed = false → s.wbuf = [] → ∀ i w rest, r = .mbmem i →
      s.tape = w :: rest →
      (regRead r s).1 = s.dev.mbmemWord s.cfg.window i ∧
      ((regRead r s).2.h.removed = true ↔
        s.dev.mbmemWord s.cfg.window i = 0xFFFFFFFF#32 ∧ w = 0xFFFFFFFF#32)) ∧
    (s.h.removed = false → s.dev.removed = false → s.wbuf = [] → ∀ w rest, r ≠ .status → r ≠ .ctrl →
      s.tape = w :: rest → ((regRead r s).2.h.removed = true ↔
        (sampleReg r s).1 = 0xFFFFFFFF#32 ∧ w = 0xFFFFFFFF#32)) ∧
    (s.h.removed = false → s.dev.removed = false → s.wbuf = [] →
      (regRead .links s).1 = s.dev.links ∧ (regRead .intMask s).1 = s.dev.intMask ∧
      (∀ q x, s.dev.queues[q]? = some x →
        (regRead (.rxdctl q) s).1 = x.rxdctl ∧ (regRead (.txdctl q) s).1 = x.txdctl) ∧
      (r ≠ .status → r ≠ .ctrl → (regRead r s).1 ≠ 0xFFFFFFFF#32 → (regRead r s).2 = s)) ∧
    (s.h.removed = false → s.dev.removed = false → s.wbuf = [] → ∀ w rest, s.tape = w :: rest →
      (regRead .status s).1 = w ∧
      (regRead .status s).2
        = { s with tape := rest, h := { s.h with removed := decide (w = 0xFFFFFFFF#32) } } ∧
      flush s = (regRead .status s).2) ∧
    ((regRead r s).2.h = { s.h with removed := (regRead r s).2.h.removed } ∧
      (flush s).h = { s.h with removed := (flush s).h.removed } ∧
      (s.h.removed = true → (regRead r s).2.h.removed = true ∧ (flush s).h.removed = true)) ∧
    (s.h.removed = false → s.dev.removed = false → s.wbuf = [] → r = .mbx →
      (regRead r s).2 = s)

/-- R80: the PF's steps, each with the condition under which it is enabled, and no other, and its effect,
taken at any time the schedule says. -/
def Obligations.PfStepsAsSpecified : Prop :=
  (∀ (p : Config.Params) (d : Device),
    (pfEnabled p .take d = true ↔ d.reqPending = true) ∧
    (pfEnabled p .takeAck d = true ↔ d.ackPending = true) ∧
    (pfEnabled p .lock d = true ↔ d.vfu = false) ∧
    (∀ i x, pfEnabled p (.write i x) d = true ↔ d.pfu = true ∧ i < p.mbxSize) ∧
    (pfEnabled p .post d = true ↔ d.pfu = true) ∧
    (pfEnabled p .unlock d = true ↔ d.pfu = true) ∧
    (∀ b, pfEnabled p (.rst b) d = true) ∧ ∀ x, pfEnabled p (.link x) d = true) ∧
  ∀ s : State,
    (∀ p rest, s.sched = .pf p :: rest → step s = .next (pfMove p { s with sched := rest })) ∧
    (s.dev.reqPending = true → pfMove .take s = { s with
      dev := { s.dev with reqPending := false }
      pfSeen := (List.range s.cfg.mbxSize).map fun i => s.dev.mbmemWord s.cfg.window i }) ∧
    (s.dev.ackPending = true →
      pfMove .takeAck s = { s with dev := { s.dev with ackPending := false } }) ∧
    (s.dev.vfu = false → pfMove .lock s = { s with dev := { s.dev with pfu := true } }) ∧
    (s.dev.pfu = true → ∀ i x, i < s.cfg.mbxSize →
      pfMove (.write i x) s = { s with dev := s.dev.setMbmemWord s.cfg.window i x }) ∧
    (s.dev.pfu = true → pfMove .post s = { s with dev := { s.dev with pfu := false, pfsts := true } }) ∧
    (s.dev.pfu = true → pfMove .unlock s = { s with dev := { s.dev with pfu := false } }) ∧
    (∀ b, pfMove (.rst b) s = { s with dev := { s.dev with rstip := b } }) ∧
    ∀ x, pfMove (.link x) s = { s with dev := { s.dev with links := x } }

/-- Only the block writes its own registers (R20, R36): a scheduled move of the PF or of the device
environment leaves the handle, the sequencer, `MSG`, the Host's buffer, the result, the diagnostics and
the parameters as they are. A scheduled step that is not enabled (a PF step whose condition fails, a drain of
an empty queue) changes nothing but the schedule; that it is skipped is the model's choice (assumption
20). -/
def Obligations.OtherAgentsLeaveTheBlock : Prop :=
  ∀ (s : State) (m : Move) (rest : List Move), s.sched = m :: rest →
    ((∃ p, m = .pf p) ∨ (∃ d, m = .dev d)) →
    ∃ t, step s = .next t ∧ t.h = s.h ∧ t.seq = s.seq ∧ t.msg = s.msg ∧ t.hostBuf = s.hostBuf ∧
      t.result = s.result ∧ t.diag = s.diag ∧ t.refusalMark = s.refusalMark ∧ t.cfg = s.cfg ∧
      t.sched = rest ∧
      (∀ p, m = .pf p → pfEnabled s.cfg p s.dev = false → t = { s with sched := rest }) ∧
      (m = .dev .drain → s.wbuf = [] → t = { s with sched := rest })

/-! ## Rules of the whole machine -/

/-- After reset (handle construction) the invariant holds, whatever the parameters are within the spec's
constraints, and the registers for which R52 and R290 give a construction value hold it; the parameters of
the state after reset are the spec's defaults, which meet the constraints. -/
def Obligations.InvariantHoldsAtReset : Prop :=
  (∀ p : Config.Params, p.Ok →
    let s := State.constructed p
    Inv s ∧ s.cfg = p ∧ s.seq = .idle ∧ s.wbuf = [] ∧ s.h.fsm = .stopped ∧
      s.h.adapterStopped = false ∧ s.h.mbxTimeout = 0#32 ∧ s.h.macValid = false ∧
      s.h.removed = false ∧ s.h.apiVersion = p.apiBase ∧ s.h.linkUp = false ∧
      s.h.linkSpeed = .unknown) ∧
  State.reset = State.constructed Config.defaults ∧ Config.defaults.Ok ∧ Inv State.reset

/-- Every step keeps the invariant: the parameters meet the spec's constraints, the buffers and tables keep
their lengths, the mailbox memory its canonical form, the two lock bits are never both 1 (R70), the pending
updates are the running command's own, operations run only in `Ready` (R170), the middle control states
occur only while RESET runs (R210), and in `Ready` the timeout is armed (R149, R297). -/
def Obligations.EveryStepKeepsTheInvariant : Prop :=
  ∀ s t : State, Inv s → step s = .next t → Inv t

/-- From a state with the invariant a step never faults and never refuses: every instruction that comes up
is executed. -/
def Obligations.StepNeverStops : Prop :=
  ∀ s : State, Inv s → ∃ t, step s = .next t

/-- "Written only by": each handle register is written only by the commands its rule names (R21 to R30, R32,
R33), and `H.removed` is never cleared. -/
def Obligations.HandleRegisterWriters : Prop :=
  ∀ s t : State, PendingOk s → step s = .next t →
    let by_ (P : Instr → Prop) : Prop := ∃ f, s.seq = .busy f ∧ P f.cmd
    (t.h.permAddr ≠ s.h.permAddr → by_ (· = .reset)) ∧
    (t.h.mcFilterType ≠ s.h.mcFilterType → by_ (· = .reset)) ∧
    (t.h.macValid ≠ s.h.macValid → by_ (· = .reset)) ∧
    (t.h.mbxTimeout ≠ s.h.mbxTimeout → by_ (· = .reset)) ∧
    (t.h.curAddr ≠ s.h.curAddr → by_ fun i => i = .init ∨ ∃ a, i = .setMac a) ∧
    (t.h.apiVersion ≠ s.h.apiVersion → by_ fun i => i = .reset ∨ ∃ v, i = .negotiateApi v) ∧
    (t.h.rssKey ≠ s.h.rssKey → by_ (· = .getRssKey)) ∧
    (t.h.reta ≠ s.h.reta → by_ (· = .getReta)) ∧
    (t.h.linkUp ≠ s.h.linkUp ∨ t.h.linkSpeed ≠ s.h.linkSpeed → by_ (· = .checkLink)) ∧
    (t.h.adapterStopped ≠ s.h.adapterStopped →
      by_ fun i => i = .stop ∨ i = .start ∨ i = .init) ∧
    (t.h.fsm ≠ s.h.fsm → by_ fun i => i = .stop ∨ i = .reset) ∧
    (s.h.removed = true → t.h.removed = true)

/-- R211: every transition of `H.fsm` is one of the table's, with what that row also writes and the status
it returns. A row writes several registers, one a step (assumption 6), so the event of a transition is the
step that makes them pending: it is where `settled` goes over from one control state to another. The write
of `H.fsm` itself, when its turn comes, gives it that control state. -/
def Obligations.ControlStateTransitions : Prop :=
  (∀ s t : State, Inv s → step s = .next t → t.h.fsm ≠ s.h.fsm →
    t.h.fsm = (settled t).h.fsm) ∧
  ∀ s t : State, Inv s → step s = .next t → (settled t).h.fsm ≠ (settled s).h.fsm →
    settled s = s ∧
    (((settled t).h = { s.h with fsm := .stopped, adapterStopped := true } ∧
        (settled t).result = some ⟨.ok, .none⟩ ∧ (settled t).seq = .idle ∧
        ∃ f, At s f .stop .stopDone) ∨
    (s.h.fsm = .stopped ∧ s.h.adapterStopped = true ∧ s.seq = .idle ∧
      (nextMove s).1 = .issue .reset ∧ (settled t).h = { s.h with fsm := .resetting }) ∨
    ((∃ f, At s f .reset .rstTest) ∧ s.h.fsm = .resetting ∧
      (settled t).h = { s.h with fsm := .stopped, macValid := false } ∧ (settled t).seq = .idle ∧
      ((settled t).result = some ⟨.error .resetTimeout, .none⟩ ∨
        (settled t).result = some ⟨.error .deviceRemoved, .none⟩)) ∨
    ((∃ f, At s f .reset .await) ∧ s.h.fsm = .resetting ∧
      (settled t).h = { s.h with fsm := .awaitingPermAddr } ∧
      t.h.mbxTimeout = t.cfg.mbxInitTimeout ∧ t.h.apiVersion = t.cfg.apiBase) ∨
    ((∃ f, s.seq = .busy f ∧ f.cmd = .reset) ∧
      (s.h.fsm = .resetting ∨ s.h.fsm = .awaitingPermAddr) ∧
      (settled t).h = { s.h with fsm := .ready, macValid := false } ∧ (settled t).seq = .idle ∧
      t.h.mbxTimeout = t.cfg.mbxInitTimeout ∧ t.h.apiVersion = t.cfg.apiBase ∧
      ∃ e, (settled t).result = some ⟨.error e, .none⟩ ∧
        (e ∈ transportErrors ∨
          e = .invalidMacAddr ∧ s.h.fsm = .awaitingPermAddr ∧ ∃ f, At s f .reset .decode)) ∨
    ((∃ f, At s f .reset .decode) ∧ s.h.fsm = .awaitingPermAddr ∧
      (settled t).h = { s.h with
        fsm := .ready
        macValid := true
        permAddr := (settled t).h.permAddr
        mcFilterType := (settled t).h.mcFilterType } ∧
      (settled t).result = some ⟨.ok, .none⟩ ∧ (settled t).seq = .idle))

/-- R265, the matrix of statuses, stated of the step that decides how a command ends: it is made with no update
pending (`settled s = s`), and the updates it plans lead to the end (R35, R262).
The first clause: in a state that meets the invariant, where such a step leads to the end, the Host gets exactly
one status, one that the command's row allows; it is not NotSupported, and with an error come no outputs (CHECK_LINK's
error comes with link down and speed unknown, R240).
The second: a command offered to an idle block that leaves it idle was refused, or it is one of the two RSS queries,
not supported, and ends with NotSupported, which its row allows (R181, R255, R260).
The third and fourth: every status a row allows is possible, NotSupported at acceptance, each other one by a
deciding step from a state that meets the invariant. EXCHANGE, which has no row, has that of WRITE_POSTED and
READ_POSTED, since it runs both (R146).
The last: whichever step ends a command, in a state whose pending updates are the running command's, hands over one
allowed status. -/
def Obligations.StatusMatrix : Prop :=
  (∀ (s t : State) (f : Frame), Inv s → settled s = s → s.seq = .busy f → step s = .next t →
    (settled t).seq = .idle →
    ∃ r, (settled t).result = some r ∧ statusAllowed f.cmd r.status = true ∧
      r.status ≠ .error .notSupported ∧
      ∀ e, r.status = .error e →
        r.output = if f.cmd = .checkLink then .link false .unknown else .none) ∧
  (∀ (s t : State) (c : Instr), c.group = .command → s.seq = .idle → exec c s = .next t →
    t.seq = .idle →
    t = { s with refusalMark := true } ∨
    ((c = .getReta ∨ c = .getRssKey) ∧ ¬ (s.h.apiVersion ∈ s.cfg.apiRssSet ∧ s.cfg.gen = .g82599) ∧
      t = ended s s.h ⟨.error .notSupported, .none⟩ ∧
      statusAllowed c (.error .notSupported) = true)) ∧
  (∀ c : Instr, statusAllowed c (.error .notSupported) = true →
    ∃ s : State, Inv s ∧ s.seq = .idle ∧
      exec c s = .next (ended s s.h ⟨.error .notSupported, .none⟩)) ∧
  (∀ (c : Instr) (st : Status), c.group = .command → statusAllowed c st = true →
    st ≠ .error .notSupported →
    ∃ (s t : State) (f : Frame) (r : Result), Inv s ∧ settled s = s ∧ s.seq = .busy f ∧ f.cmd = c ∧
      step s = .next t ∧ (settled t).seq = .idle ∧ (settled t).result = some r ∧ r.status = st) ∧
  ∀ (s t : State) (f : Frame), PendingOk s → s.seq = .busy f → step s = .next t → t.seq = .idle →
    ∃ r, t.result = some r ∧ statusAllowed f.cmd r.status = true

/-- What is sticky stays (R33, R50, R260), and no step writes the parameters or changes how many queue
pairs the device has (R34, R51). -/
def Obligations.StickyMarksStay : Prop :=
  ∀ s t : State, step s = .next t →
    (s.h.removed = true → t.h.removed = true) ∧
    (s.dev.removed = true → t.dev.removed = true) ∧
    (s.refusalMark = true → t.refusalMark = true) ∧ t.cfg = s.cfg ∧
    t.dev.queues.length = s.dev.queues.length

/-! ## Whole commands -/

/-- R213: STOP always succeeds. From acceptance in any idle state that has no posted write waiting, when only
the block moves, it comes to its end with status `OK`, the stopped flag set and the control state `Stopped`,
whatever the device does; if the device is not found removed, every queue enable is cleared with the other
bits kept, and the interrupt mask is 0. -/
def Obligations.StopAlwaysSucceeds : Prop :=
  ∀ s : State, s.cfg.Ok → s.dev.queues.length = s.cfg.numQueues → s.seq = .idle → s.sched = [] →
    s.wbuf = [] →
    ∃ (s1 t : State) (k : Nat), exec .stop s = .next s1 ∧ Reaches k s1 t ∧ t.seq = .idle ∧
      t.result = some ⟨.ok, .none⟩ ∧ t.h.adapterStopped = true ∧ t.h.fsm = .stopped ∧
      t.h = { s.h with adapterStopped := true, fsm := .stopped, removed := t.h.removed } ∧
      t.refusalMark = s.refusalMark ∧
      (t.h.removed = false →
        t.dev.intMask = 0#32 ∧
        t.dev.queues = s.dev.queues.map fun x =>
          ⟨x.rxdctl &&& ~~~(1#32 <<< s.cfg.window.dctlEnable),
            x.txdctl &&& ~~~(1#32 <<< s.cfg.window.dctlEnable)⟩)

/-- R214, R257, and the property "must return a reset-timeout error and must not populate the permanent
MAC": a RESET against a PF that never moves ends with ResetTimeout (or DeviceRemoved, if the device is
found removed), in `Stopped`, with `H.mac_valid = 0`, the timeout not armed by this RESET and the address
not written. -/
def Obligations.ResetAgainstSilentPfFails : Prop :=
  ∀ s : State, s.cfg.Ok → s.seq = .idle → s.sched = [] → s.wbuf = [] → s.h.fsm = .stopped →
    s.h.adapterStopped = true →
    ∃ (s1 t : State) (k : Nat) (e : ErrorKind), exec .reset s = .next s1 ∧ Reaches k s1 t ∧
      t.seq = .idle ∧ t.result = some ⟨.error e, .none⟩ ∧
      (e = .resetTimeout ∨ e = .deviceRemoved ∧ t.h.removed = true) ∧
      t.h = { s.h with macValid := false, removed := t.h.removed }

/-- R308: with finite budgets every command ends in a bounded number of the block's own steps, whatever the
PF does. There is a measure that every step of the block decreases until the command ends, and that no
move of another agent changes; the premises are kept, so the steps can be counted on. Only WRITE_POSTED,
READ_POSTED and EXCHANGE need the premise on budgets at their acceptance: every other command is accepted
into a state that meets it, with `UNARMED_BUDGET = INF` too, since RESET arms the timeout before it polls
and operations run with it armed (R297). -/
def Obligations.CommandsTerminate : Prop :=
  (∃ μ : State → Nat, ∀ s t : State, Inv s → FiniteBudgets s → step s = .next t →
    ∀ f, s.seq = .busy f →
      (BlockMoves s → t.seq = .idle ∨ FiniteBudgets t ∧ μ t < μ s) ∧
      (¬ BlockMoves s → t.seq = .busy f ∧ FiniteBudgets t ∧ μ t = μ s)) ∧
  ∀ (s t : State) (f : Frame), s.seq = .idle → step s = .next t → t.seq = .busy f →
    (isTransport f.cmd = true → t.h.mbxTimeout ≠ 0#32 ∨ t.cfg.unarmedBudget ≠ none) →
    FiniteBudgets t
end

