-- ==== Sys2Proof/Laws/Memory.lean ====
section
/-!
SUPPORT. The laws of the mailbox memory: every operation keeps the canonical form, a read after a write
gives the value written, and a write leaves every other byte alone.
-/

namespace Sys2Proof.Machine

/-- Every address of the memory is above `k`. -/
def Memory.Above (k : Nat) (m : Memory) : Prop := ∀ e ∈ m, k < e.1

theorem Memory.wf_cons (k : Nat) (b : Byte) (m : Memory) :
    Memory.wf ((k, b) :: m) = true ↔
      b ≠ Memory.unlisted k ∧ Memory.Above k m ∧ Memory.wf m = true := by
  induction m generalizing k b with
  | nil => simp [Memory.wf, Memory.Above]
  | cons e m ih =>
    obtain ⟨k', b'⟩ := e
    have h := ih k' b'
    constructor
    · intro hw
      simp only [Memory.wf, Bool.and_eq_true, decide_eq_true_eq] at hw
      obtain ⟨⟨hb, hk⟩, hm⟩ := hw
      refine ⟨hb, ?_, hm⟩
      have habove := (h.mp hm).2.1
      intro e he
      rcases List.mem_cons.mp he with rfl | he
      · exact hk
      · exact Nat.lt_trans hk (habove e he)
    · rintro ⟨hb, ha, hm⟩
      have hk : k < k' := ha (k', b') (by simp)
      simp only [Memory.wf, Bool.and_eq_true, decide_eq_true_eq]
      exact ⟨⟨hb, hk⟩, hm⟩

theorem Memory.readByte_of_above {m : Memory} {a : Nat} (h : Memory.Above a m) :
    m.readByte a = Memory.unlisted a := by
  induction m with
  | nil => rfl
  | cons e m ih =>
    obtain ⟨k, b⟩ := e
    have hk : a < k := h (k, b) (by simp)
    have hne : a ≠ k := Nat.ne_of_lt hk
    simp only [Memory.readByte, if_neg hne]
    exact ih fun e he => h e (List.mem_cons_of_mem _ he)

theorem Memory.above_mono {m : Memory} {a k : Nat} (hak : a ≤ k) (h : Memory.Above k m) :
    Memory.Above a m := fun e he => Nat.lt_of_le_of_lt hak (h e he)

theorem Memory.above_writeByte {m : Memory} {k a : Nat} {b : Byte} (h : Memory.Above k m)
    (hka : k < a) : Memory.Above k (m.writeByte a b) := by
  induction m with
  | nil =>
    intro e he
    by_cases hb : b = Memory.unlisted a <;> simp_all [Memory.writeByte]
  | cons c m ih =>
    obtain ⟨k', b'⟩ := c
    have hk' : k < k' := h (k', b') (by simp)
    have hm : Memory.Above k m := fun e he => h e (List.mem_cons_of_mem _ he)
    intro e he
    simp only [Memory.writeByte] at he
    split at he
    · split at he
      · exact h e he
      · rcases List.mem_cons.mp he with rfl | he
        · exact hka
        · exact h e he
    · split at he
      · split at he
        · exact hm e he
        · rcases List.mem_cons.mp he with rfl | he
          · exact hka
          · exact hm e he
      · rcases List.mem_cons.mp he with rfl | he
        · exact hk'
        · exact ih hm e he

/-- Writing a byte keeps the canonical form. -/
theorem Memory.wf_writeByte {m : Memory} (h : Memory.wf m = true) (a : Nat) (b : Byte) :
    Memory.wf (m.writeByte a b) = true := by
  induction m with
  | nil => by_cases hb : b = Memory.unlisted a <;> simp [Memory.writeByte, Memory.wf, hb]
  | cons c m ih =>
    obtain ⟨k, c⟩ := c
    obtain ⟨hc, habove, hm⟩ := (Memory.wf_cons k c m).mp h
    simp only [Memory.writeByte]
    split
    · rename_i hak
      split
      · exact h
      · rename_i hb
        refine (Memory.wf_cons a b _).mpr ⟨hb, ?_, h⟩
        intro e he
        rcases List.mem_cons.mp he with rfl | he
        · exact hak
        · exact Nat.lt_trans hak (habove e he)
    · split
      · rename_i hak
        subst hak
        split
        · exact hm
        · rename_i hb
          exact (Memory.wf_cons _ b m).mpr ⟨hb, habove, hm⟩
      · rename_i hlt hne
        refine (Memory.wf_cons k c _).mpr ⟨hc, ?_, ih hm⟩
        exact Memory.above_writeByte habove (by omega)

/-- A read of the byte just written gives the value written. -/
theorem Memory.readByte_writeByte_same {m : Memory} (h : Memory.wf m = true) (a : Nat) (b : Byte) :
    (m.writeByte a b).readByte a = b := by
  induction m with
  | nil => by_cases hb : b = Memory.unlisted a <;> simp [Memory.writeByte, Memory.readByte, hb]
  | cons c m ih =>
    obtain ⟨k, c⟩ := c
    obtain ⟨hc, habove, hm⟩ := (Memory.wf_cons k c m).mp h
    simp only [Memory.writeByte]
    split
    · rename_i hak
      split
      · rename_i hb
        rw [hb]
        refine Memory.readByte_of_above ?_
        intro e he
        rcases List.mem_cons.mp he with rfl | he
        · exact hak
        · exact Nat.lt_trans hak (habove e he)
      · simp [Memory.readByte]
    · split
      · rename_i hak
        subst hak
        split
        · rename_i hb
          rw [hb]
          exact Memory.readByte_of_above habove
        · simp [Memory.readByte]
      · rename_i hlt hne
        simp only [Memory.readByte, if_neg hne]
        exact ih hm

/-- A write leaves every other byte alone. -/
theorem Memory.readByte_writeByte_ne (m : Memory) {a a' : Nat} (b : Byte) (hne : a' ≠ a) :
    (m.writeByte a b).readByte a' = m.readByte a' := by
  induction m with
  | nil =>
    by_cases hb : b = Memory.unlisted a <;> simp [Memory.writeByte, Memory.readByte, hb, hne]
  | cons c m ih =>
    obtain ⟨k, c⟩ := c
    simp only [Memory.writeByte]
    split
    · split
      · rfl
      · simp [Memory.readByte, hne]
    · split
      · rename_i hak
        subst hak
        split <;> simp [Memory.readByte, hne]
      · simp only [Memory.readByte]
        rw [ih]

/-- Writing a word keeps the canonical form. -/
theorem Memory.wf_writeWord {m : Memory} (h : Memory.wf m = true) (a : Nat) (w : Word) :
    Memory.wf (m.writeWord a w) = true :=
  Memory.wf_writeByte (Memory.wf_writeByte (Memory.wf_writeByte (Memory.wf_writeByte h _ _) _ _) _ _)
    _ _

/-- A word write leaves every byte outside its four alone. -/
theorem Memory.readByte_writeWord_outside (m : Memory) {a x : Nat} (w : Word)
    (h : x < a ∨ a + 4 ≤ x) : (m.writeWord a w).readByte x = m.readByte x := by
  have h0 : x ≠ a := by omega
  have h1 : x ≠ a + 1 := by omega
  have h2 : x ≠ a + 2 := by omega
  have h3 : x ≠ a + 3 := by omega
  simp [Memory.writeWord, Memory.readByte_writeByte_ne, h0, h1, h2, h3]

/-- The four bytes of a word put together are the word. -/
theorem wordOfBytes_bytes (w : Word) :
    wordOfBytes (w.extractLsb' 0 8) (w.extractLsb' 8 8) (w.extractLsb' 16 8) (w.extractLsb' 24 8) = w := by
  ext i hi
  simp only [wordOfBytes, BitVec.getElem_or, BitVec.getElem_setWidth, BitVec.getElem_shiftLeft,
    BitVec.getLsbD_extractLsb']
  rcases Nat.lt_or_ge i 8 with h | h
  · have : i < 16 := by omega
    have : i < 24 := by omega
    simp [*]
  · rcases Nat.lt_or_ge i 16 with h2 | h2
    · have : i < 24 := by omega
      have h8 : ¬ i < 8 := by omega
      have h88 : i - 8 < 8 := by omega
      have h8i : 8 + (i - 8) = i := by omega
      simp [*]
    · rcases Nat.lt_or_ge i 24 with h3 | h3
      · have h8 : ¬ i < 8 := by omega
        have h16 : ¬ i < 16 := by omega
        have h88 : ¬ i - 8 < 8 := by omega
        have h89 : i - 16 < 8 := by omega
        have h8i : 16 + (i - 16) = i := by omega
        simp [*]
      · have h8 : ¬ i < 8 := by omega
        have h16 : ¬ i < 16 := by omega
        have h24 : ¬ i < 24 := by omega
        have h88 : ¬ i - 8 < 8 := by omega
        have h89 : ¬ i - 16 < 8 := by omega
        have h90 : i - 24 < 8 := by omega
        have h8i : 24 + (i - 24) = i := by omega
        simp [*]

/-- A read of the word just written gives the word written. -/
theorem Memory.readWord_writeWord_same {m : Memory} (h : Memory.wf m = true) (a : Nat) (w : Word) :
    (m.writeWord a w).readWord a = w := by
  have h1 := Memory.wf_writeByte h a (w.extractLsb' 0 8)
  have h2 := Memory.wf_writeByte h1 (a + 1) (w.extractLsb' 8 8)
  have h3 := Memory.wf_writeByte h2 (a + 2) (w.extractLsb' 16 8)
  simp only [Memory.readWord, Memory.writeWord, Memory.readByte_writeByte_same h3]
  rw [Memory.readByte_writeByte_ne _ _ (by omega : a ≠ a + 3),
    Memory.readByte_writeByte_ne _ _ (by omega : a ≠ a + 2),
    Memory.readByte_writeByte_ne _ _ (by omega : a ≠ a + 1), Memory.readByte_writeByte_same h,
    Memory.readByte_writeByte_ne _ _ (by omega : a + 1 ≠ a + 3),
    Memory.readByte_writeByte_ne _ _ (by omega : a + 1 ≠ a + 2), Memory.readByte_writeByte_same h1,
    Memory.readByte_writeByte_ne _ _ (by omega : a + 2 ≠ a + 3), Memory.readByte_writeByte_same h2]
  exact wordOfBytes_bytes w

/-- A word write leaves every word that does not overlap it alone. -/
theorem Memory.readWord_writeWord_disjoint (m : Memory) {a x : Nat} (w : Word)
    (h : x + 4 ≤ a ∨ a + 4 ≤ x) : (m.writeWord a w).readWord x = m.readWord x := by
  simp only [Memory.readWord]
  rw [Memory.readByte_writeWord_outside m w (by omega), Memory.readByte_writeWord_outside m w (by omega),
    Memory.readByte_writeWord_outside m w (by omega), Memory.readByte_writeWord_outside m w (by omega)]

/-- `MBMEM[i]` after `MBMEM[i] <- x` is `x` (R44). -/
theorem Device.mbmemWord_setMbmemWord_same (win : Config.Window) {d : Device}
    (h : Memory.wf d.mbmem = true) (i : Nat) (x : Word) : (d.setMbmemWord win i x).mbmemWord win i = x := Memory.readWord_writeWord_same h _ _

/-- `MBMEM[j]` after `MBMEM[i] <- x` is unchanged for another `j` (R44). -/
theorem Device.mbmemWord_setMbmemWord_ne (win : Config.Window) (d : Device) {i j : Nat} (x : Word) (hne : j ≠ i) :
    (d.setMbmemWord win i x).mbmemWord win j = d.mbmemWord win j := by
  refine Memory.readWord_writeWord_disjoint _ _ ?_
  simp only [mbmemAddr]
  omega

/-- Filling `MBMEM` keeps the canonical form. -/
theorem wf_fillMbmem (win : Config.Window) (ws : List Word) (i : Nat) (d : Device) (h : Memory.wf d.mbmem = true) :
    Memory.wf (fillMbmem win i ws d).mbmem = true := by
  induction ws generalizing i d with
  | nil => exact h
  | cons w ws ih => exact ih (i + 1) _ (Memory.wf_writeWord h _ _)

end Sys2Proof.Machine
end

