-- ==== Sys2Proof/Laws/State.lean ====
section
/-!
SUPPORT. One lemma per field per update of the state, each true by definition and a simp lemma, so that
no proof unfolds a record update.
-/

namespace Sys2Proof.Machine

/-! ## `State.modHandle` -/

@[simp] theorem State.modHandle_h (s : State) (g : Handle → Handle) : (s.modHandle g).h = g s.h := rfl
@[simp] theorem State.modHandle_seq (s : State) (g : Handle → Handle) : (s.modHandle g).seq = s.seq := rfl
@[simp] theorem State.modHandle_msg (s : State) (g : Handle → Handle) : (s.modHandle g).msg = s.msg := rfl
@[simp] theorem State.modHandle_hostBuf (s : State) (g : Handle → Handle) : (s.modHandle g).hostBuf = s.hostBuf := rfl
@[simp] theorem State.modHandle_dev (s : State) (g : Handle → Handle) : (s.modHandle g).dev = s.dev := rfl
@[simp] theorem State.modHandle_wbuf (s : State) (g : Handle → Handle) : (s.modHandle g).wbuf = s.wbuf := rfl
@[simp] theorem State.modHandle_pfSeen (s : State) (g : Handle → Handle) : (s.modHandle g).pfSeen = s.pfSeen := rfl
@[simp] theorem State.modHandle_result (s : State) (g : Handle → Handle) : (s.modHandle g).result = s.result := rfl
@[simp] theorem State.modHandle_diag (s : State) (g : Handle → Handle) : (s.modHandle g).diag = s.diag := rfl
@[simp] theorem State.modHandle_refusalMark (s : State) (g : Handle → Handle) : (s.modHandle g).refusalMark = s.refusalMark := rfl
@[simp] theorem State.modHandle_sched (s : State) (g : Handle → Handle) : (s.modHandle g).sched = s.sched := rfl
@[simp] theorem State.modHandle_tape (s : State) (g : Handle → Handle) : (s.modHandle g).tape = s.tape := rfl
@[simp] theorem State.modHandle_drawn (s : State) (g : Handle → Handle) : (s.modHandle g).drawn = s.drawn := rfl
@[simp] theorem State.modHandle_cfg (s : State) (g : Handle → Handle) : (s.modHandle g).cfg = s.cfg := rfl

/-! ## `State.modDev` -/

@[simp] theorem State.modDev_h (s : State) (g : Device → Device) : (s.modDev g).h = s.h := rfl
@[simp] theorem State.modDev_seq (s : State) (g : Device → Device) : (s.modDev g).seq = s.seq := rfl
@[simp] theorem State.modDev_msg (s : State) (g : Device → Device) : (s.modDev g).msg = s.msg := rfl
@[simp] theorem State.modDev_hostBuf (s : State) (g : Device → Device) : (s.modDev g).hostBuf = s.hostBuf := rfl
@[simp] theorem State.modDev_dev (s : State) (g : Device → Device) : (s.modDev g).dev = g s.dev := rfl
@[simp] theorem State.modDev_wbuf (s : State) (g : Device → Device) : (s.modDev g).wbuf = s.wbuf := rfl
@[simp] theorem State.modDev_pfSeen (s : State) (g : Device → Device) : (s.modDev g).pfSeen = s.pfSeen := rfl
@[simp] theorem State.modDev_result (s : State) (g : Device → Device) : (s.modDev g).result = s.result := rfl
@[simp] theorem State.modDev_diag (s : State) (g : Device → Device) : (s.modDev g).diag = s.diag := rfl
@[simp] theorem State.modDev_refusalMark (s : State) (g : Device → Device) : (s.modDev g).refusalMark = s.refusalMark := rfl
@[simp] theorem State.modDev_sched (s : State) (g : Device → Device) : (s.modDev g).sched = s.sched := rfl
@[simp] theorem State.modDev_tape (s : State) (g : Device → Device) : (s.modDev g).tape = s.tape := rfl
@[simp] theorem State.modDev_drawn (s : State) (g : Device → Device) : (s.modDev g).drawn = s.drawn := rfl
@[simp] theorem State.modDev_cfg (s : State) (g : Device → Device) : (s.modDev g).cfg = s.cfg := rfl

/-! ## `State.setFrame` -/

@[simp] theorem State.setFrame_h (s : State) (f : Frame) : (s.setFrame f).h = s.h := rfl
@[simp] theorem State.setFrame_seq (s : State) (f : Frame) : (s.setFrame f).seq = .busy f := rfl
@[simp] theorem State.setFrame_msg (s : State) (f : Frame) : (s.setFrame f).msg = s.msg := rfl
@[simp] theorem State.setFrame_hostBuf (s : State) (f : Frame) : (s.setFrame f).hostBuf = s.hostBuf := rfl
@[simp] theorem State.setFrame_dev (s : State) (f : Frame) : (s.setFrame f).dev = s.dev := rfl
@[simp] theorem State.setFrame_wbuf (s : State) (f : Frame) : (s.setFrame f).wbuf = s.wbuf := rfl
@[simp] theorem State.setFrame_pfSeen (s : State) (f : Frame) : (s.setFrame f).pfSeen = s.pfSeen := rfl
@[simp] theorem State.setFrame_result (s : State) (f : Frame) : (s.setFrame f).result = s.result := rfl
@[simp] theorem State.setFrame_diag (s : State) (f : Frame) : (s.setFrame f).diag = s.diag := rfl
@[simp] theorem State.setFrame_refusalMark (s : State) (f : Frame) : (s.setFrame f).refusalMark = s.refusalMark := rfl
@[simp] theorem State.setFrame_sched (s : State) (f : Frame) : (s.setFrame f).sched = s.sched := rfl
@[simp] theorem State.setFrame_tape (s : State) (f : Frame) : (s.setFrame f).tape = s.tape := rfl
@[simp] theorem State.setFrame_drawn (s : State) (f : Frame) : (s.setFrame f).drawn = s.drawn := rfl
@[simp] theorem State.setFrame_cfg (s : State) (f : Frame) : (s.setFrame f).cfg = s.cfg := rfl

/-! ## `State.goto` -/

@[simp] theorem State.goto_h (s : State) (f : Frame) (p : Point) : (s.goto f p).h = s.h := rfl
@[simp] theorem State.goto_seq (s : State) (f : Frame) (p : Point) : (s.goto f p).seq = .busy { f with point := p } := rfl
@[simp] theorem State.goto_msg (s : State) (f : Frame) (p : Point) : (s.goto f p).msg = s.msg := rfl
@[simp] theorem State.goto_hostBuf (s : State) (f : Frame) (p : Point) : (s.goto f p).hostBuf = s.hostBuf := rfl
@[simp] theorem State.goto_dev (s : State) (f : Frame) (p : Point) : (s.goto f p).dev = s.dev := rfl
@[simp] theorem State.goto_wbuf (s : State) (f : Frame) (p : Point) : (s.goto f p).wbuf = s.wbuf := rfl
@[simp] theorem State.goto_pfSeen (s : State) (f : Frame) (p : Point) : (s.goto f p).pfSeen = s.pfSeen := rfl
@[simp] theorem State.goto_result (s : State) (f : Frame) (p : Point) : (s.goto f p).result = s.result := rfl
@[simp] theorem State.goto_diag (s : State) (f : Frame) (p : Point) : (s.goto f p).diag = s.diag := rfl
@[simp] theorem State.goto_refusalMark (s : State) (f : Frame) (p : Point) : (s.goto f p).refusalMark = s.refusalMark := rfl
@[simp] theorem State.goto_sched (s : State) (f : Frame) (p : Point) : (s.goto f p).sched = s.sched := rfl
@[simp] theorem State.goto_tape (s : State) (f : Frame) (p : Point) : (s.goto f p).tape = s.tape := rfl
@[simp] theorem State.goto_drawn (s : State) (f : Frame) (p : Point) : (s.goto f p).drawn = s.drawn := rfl
@[simp] theorem State.goto_cfg (s : State) (f : Frame) (p : Point) : (s.goto f p).cfg = s.cfg := rfl

/-! ## `accept` -/

@[simp] theorem accept_h (f : Frame) (s : State) : (accept f s).h = s.h := rfl
@[simp] theorem accept_seq (f : Frame) (s : State) : (accept f s).seq = .busy f := rfl
@[simp] theorem accept_msg (f : Frame) (s : State) : (accept f s).msg = s.msg := rfl
@[simp] theorem accept_hostBuf (f : Frame) (s : State) : (accept f s).hostBuf = s.hostBuf := rfl
@[simp] theorem accept_dev (f : Frame) (s : State) : (accept f s).dev = s.dev := rfl
@[simp] theorem accept_wbuf (f : Frame) (s : State) : (accept f s).wbuf = s.wbuf := rfl
@[simp] theorem accept_pfSeen (f : Frame) (s : State) : (accept f s).pfSeen = s.pfSeen := rfl
@[simp] theorem accept_result (f : Frame) (s : State) : (accept f s).result = none := rfl
@[simp] theorem accept_diag (f : Frame) (s : State) : (accept f s).diag = s.diag := rfl
@[simp] theorem accept_refusalMark (f : Frame) (s : State) : (accept f s).refusalMark = s.refusalMark := rfl
@[simp] theorem accept_sched (f : Frame) (s : State) : (accept f s).sched = s.sched := rfl
@[simp] theorem accept_tape (f : Frame) (s : State) : (accept f s).tape = s.tape := rfl
@[simp] theorem accept_drawn (f : Frame) (s : State) : (accept f s).drawn = s.drawn := rfl
@[simp] theorem accept_cfg (f : Frame) (s : State) : (accept f s).cfg = s.cfg := rfl

/-! ## `refuse` -/

@[simp] theorem refuse_h (s : State) : (refuse s).h = s.h := rfl
@[simp] theorem refuse_seq (s : State) : (refuse s).seq = s.seq := rfl
@[simp] theorem refuse_msg (s : State) : (refuse s).msg = s.msg := rfl
@[simp] theorem refuse_hostBuf (s : State) : (refuse s).hostBuf = s.hostBuf := rfl
@[simp] theorem refuse_dev (s : State) : (refuse s).dev = s.dev := rfl
@[simp] theorem refuse_wbuf (s : State) : (refuse s).wbuf = s.wbuf := rfl
@[simp] theorem refuse_pfSeen (s : State) : (refuse s).pfSeen = s.pfSeen := rfl
@[simp] theorem refuse_result (s : State) : (refuse s).result = s.result := rfl
@[simp] theorem refuse_diag (s : State) : (refuse s).diag = s.diag := rfl
@[simp] theorem refuse_refusalMark (s : State) : (refuse s).refusalMark = true := rfl
@[simp] theorem refuse_sched (s : State) : (refuse s).sched = s.sched := rfl
@[simp] theorem refuse_tape (s : State) : (refuse s).tape = s.tape := rfl
@[simp] theorem refuse_drawn (s : State) : (refuse s).drawn = s.drawn := rfl
@[simp] theorem refuse_cfg (s : State) : (refuse s).cfg = s.cfg := rfl

/-! ## `finish` -/

@[simp] theorem finish_h (r : Result) (s : State) : (finish r s).h = s.h := rfl
@[simp] theorem finish_seq (r : Result) (s : State) : (finish r s).seq = .idle := rfl
@[simp] theorem finish_msg (r : Result) (s : State) : (finish r s).msg = s.msg := rfl
@[simp] theorem finish_hostBuf (r : Result) (s : State) : (finish r s).hostBuf = s.hostBuf := rfl
@[simp] theorem finish_dev (r : Result) (s : State) : (finish r s).dev = s.dev := rfl
@[simp] theorem finish_wbuf (r : Result) (s : State) : (finish r s).wbuf = s.wbuf := rfl
@[simp] theorem finish_pfSeen (r : Result) (s : State) : (finish r s).pfSeen = s.pfSeen := rfl
@[simp] theorem finish_result (r : Result) (s : State) : (finish r s).result = some r := rfl
@[simp] theorem finish_diag (r : Result) (s : State) : (finish r s).diag = s.diag := rfl
@[simp] theorem finish_refusalMark (r : Result) (s : State) : (finish r s).refusalMark = s.refusalMark := rfl
@[simp] theorem finish_sched (r : Result) (s : State) : (finish r s).sched = s.sched := rfl
@[simp] theorem finish_tape (r : Result) (s : State) : (finish r s).tape = s.tape := rfl
@[simp] theorem finish_drawn (r : Result) (s : State) : (finish r s).drawn = s.drawn := rfl
@[simp] theorem finish_cfg (r : Result) (s : State) : (finish r s).cfg = s.cfg := rfl

/-! ## `plan` -/

@[simp] theorem plan_h (ps : List Prim) (f : Frame) (s : State) : (plan ps f s).h = s.h := rfl
@[simp] theorem plan_seq (ps : List Prim) (f : Frame) (s : State) : (plan ps f s).seq = .busy { f with todo := ps } := rfl
@[simp] theorem plan_msg (ps : List Prim) (f : Frame) (s : State) : (plan ps f s).msg = s.msg := rfl
@[simp] theorem plan_hostBuf (ps : List Prim) (f : Frame) (s : State) : (plan ps f s).hostBuf = s.hostBuf := rfl
@[simp] theorem plan_dev (ps : List Prim) (f : Frame) (s : State) : (plan ps f s).dev = s.dev := rfl
@[simp] theorem plan_wbuf (ps : List Prim) (f : Frame) (s : State) : (plan ps f s).wbuf = s.wbuf := rfl
@[simp] theorem plan_pfSeen (ps : List Prim) (f : Frame) (s : State) : (plan ps f s).pfSeen = s.pfSeen := rfl
@[simp] theorem plan_result (ps : List Prim) (f : Frame) (s : State) : (plan ps f s).result = s.result := rfl
@[simp] theorem plan_diag (ps : List Prim) (f : Frame) (s : State) : (plan ps f s).diag = s.diag := rfl
@[simp] theorem plan_refusalMark (ps : List Prim) (f : Frame) (s : State) : (plan ps f s).refusalMark = s.refusalMark := rfl
@[simp] theorem plan_sched (ps : List Prim) (f : Frame) (s : State) : (plan ps f s).sched = s.sched := rfl
@[simp] theorem plan_tape (ps : List Prim) (f : Frame) (s : State) : (plan ps f s).tape = s.tape := rfl
@[simp] theorem plan_drawn (ps : List Prim) (f : Frame) (s : State) : (plan ps f s).drawn = s.drawn := rfl
@[simp] theorem plan_cfg (ps : List Prim) (f : Frame) (s : State) : (plan ps f s).cfg = s.cfg := rfl

/-! ## `markRemoved` -/

@[simp] theorem markRemoved_h (s : State) : (markRemoved s).h = { s.h with removed := true } := rfl
@[simp] theorem markRemoved_seq (s : State) : (markRemoved s).seq = s.seq := rfl
@[simp] theorem markRemoved_msg (s : State) : (markRemoved s).msg = s.msg := rfl
@[simp] theorem markRemoved_hostBuf (s : State) : (markRemoved s).hostBuf = s.hostBuf := rfl
@[simp] theorem markRemoved_dev (s : State) : (markRemoved s).dev = s.dev := rfl
@[simp] theorem markRemoved_wbuf (s : State) : (markRemoved s).wbuf = s.wbuf := rfl
@[simp] theorem markRemoved_pfSeen (s : State) : (markRemoved s).pfSeen = s.pfSeen := rfl
@[simp] theorem markRemoved_result (s : State) : (markRemoved s).result = s.result := rfl
@[simp] theorem markRemoved_diag (s : State) : (markRemoved s).diag = s.diag := rfl
@[simp] theorem markRemoved_refusalMark (s : State) : (markRemoved s).refusalMark = s.refusalMark := rfl
@[simp] theorem markRemoved_sched (s : State) : (markRemoved s).sched = s.sched := rfl
@[simp] theorem markRemoved_tape (s : State) : (markRemoved s).tape = s.tape := rfl
@[simp] theorem markRemoved_drawn (s : State) : (markRemoved s).drawn = s.drawn := rfl
@[simp] theorem markRemoved_cfg (s : State) : (markRemoved s).cfg = s.cfg := rfl

/-! ## `delay` -/

@[simp] theorem delay_h (d : Config.DelayName) (s : State) : (delay d s).h = s.h := rfl
@[simp] theorem delay_seq (d : Config.DelayName) (s : State) : (delay d s).seq = s.seq := rfl
@[simp] theorem delay_msg (d : Config.DelayName) (s : State) : (delay d s).msg = s.msg := rfl
@[simp] theorem delay_hostBuf (d : Config.DelayName) (s : State) : (delay d s).hostBuf = s.hostBuf := rfl
@[simp] theorem delay_dev (d : Config.DelayName) (s : State) : (delay d s).dev = s.dev := rfl
@[simp] theorem delay_wbuf (d : Config.DelayName) (s : State) : (delay d s).wbuf = s.wbuf := rfl
@[simp] theorem delay_pfSeen (d : Config.DelayName) (s : State) : (delay d s).pfSeen = s.pfSeen := rfl
@[simp] theorem delay_result (d : Config.DelayName) (s : State) : (delay d s).result = s.result := rfl
@[simp] theorem delay_diag (d : Config.DelayName) (s : State) : (delay d s).diag = s.diag := rfl
@[simp] theorem delay_refusalMark (d : Config.DelayName) (s : State) : (delay d s).refusalMark = s.refusalMark := rfl
@[simp] theorem delay_sched (d : Config.DelayName) (s : State) : (delay d s).sched = s.sched := rfl
@[simp] theorem delay_tape (d : Config.DelayName) (s : State) : (delay d s).tape = s.tape := rfl
@[simp] theorem delay_drawn (d : Config.DelayName) (s : State) : (delay d s).drawn = s.drawn := rfl
@[simp] theorem delay_cfg (d : Config.DelayName) (s : State) : (delay d s).cfg = s.cfg := rfl

/-! ## `hostReceive` -/

@[simp] theorem hostReceive_h (s : State) : (hostReceive s).h = s.h := rfl
@[simp] theorem hostReceive_seq (s : State) : (hostReceive s).seq = s.seq := rfl
@[simp] theorem hostReceive_msg (s : State) : (hostReceive s).msg = s.msg := rfl
@[simp] theorem hostReceive_hostBuf (s : State) : (hostReceive s).hostBuf = s.hostBuf := rfl
@[simp] theorem hostReceive_dev (s : State) : (hostReceive s).dev = s.dev := rfl
@[simp] theorem hostReceive_wbuf (s : State) : (hostReceive s).wbuf = s.wbuf := rfl
@[simp] theorem hostReceive_pfSeen (s : State) : (hostReceive s).pfSeen = s.pfSeen := rfl
@[simp] theorem hostReceive_result (s : State) : (hostReceive s).result = none := rfl
@[simp] theorem hostReceive_diag (s : State) : (hostReceive s).diag = s.diag := rfl
@[simp] theorem hostReceive_refusalMark (s : State) : (hostReceive s).refusalMark = s.refusalMark := rfl
@[simp] theorem hostReceive_sched (s : State) : (hostReceive s).sched = s.sched := rfl
@[simp] theorem hostReceive_tape (s : State) : (hostReceive s).tape = s.tape := rfl
@[simp] theorem hostReceive_drawn (s : State) : (hostReceive s).drawn = s.drawn := rfl
@[simp] theorem hostReceive_cfg (s : State) : (hostReceive s).cfg = s.cfg := rfl

end Sys2Proof.Machine
end

