-- ==== Sys2Proof/Laws/Ops.lean ====
section
/-!
SUPPORT. What each shared operation can do: the draws touch only the tape and the counter, a device
operation only the device and the draws, a register access besides these only the posted writes and the
block's record of removal. One lemma per field, and one lemma per operation that says what it answers.
-/

namespace Sys2Proof.Machine

/-! ## The draws touch only the tape and the counter -/

@[simp] theorem drawWord_h (s : State) : (drawWord s).2.h = s.h := by
  unfold drawWord; split <;> rfl
@[simp] theorem drawWord_seq (s : State) : (drawWord s).2.seq = s.seq := by
  unfold drawWord; split <;> rfl
@[simp] theorem drawWord_msg (s : State) : (drawWord s).2.msg = s.msg := by
  unfold drawWord; split <;> rfl
@[simp] theorem drawWord_hostBuf (s : State) : (drawWord s).2.hostBuf = s.hostBuf := by
  unfold drawWord; split <;> rfl
@[simp] theorem drawWord_dev (s : State) : (drawWord s).2.dev = s.dev := by
  unfold drawWord; split <;> rfl
@[simp] theorem drawWord_wbuf (s : State) : (drawWord s).2.wbuf = s.wbuf := by
  unfold drawWord; split <;> rfl
@[simp] theorem drawWord_pfSeen (s : State) : (drawWord s).2.pfSeen = s.pfSeen := by
  unfold drawWord; split <;> rfl
@[simp] theorem drawWord_result (s : State) : (drawWord s).2.result = s.result := by
  unfold drawWord; split <;> rfl
@[simp] theorem drawWord_diag (s : State) : (drawWord s).2.diag = s.diag := by
  unfold drawWord; split <;> rfl
@[simp] theorem drawWord_refusalMark (s : State) : (drawWord s).2.refusalMark = s.refusalMark := by
  unfold drawWord; split <;> rfl
@[simp] theorem drawWord_sched (s : State) : (drawWord s).2.sched = s.sched := by
  unfold drawWord; split <;> rfl
@[simp] theorem drawWord_cfg (s : State) : (drawWord s).2.cfg = s.cfg := by
  unfold drawWord; split <;> rfl

@[simp] theorem drawWords_h (k : Nat) (s : State) : (drawWords k s).2.h = s.h := by
  induction k generalizing s with
  | zero => rfl
  | succ k ih => simp [drawWords, ih]
@[simp] theorem drawWords_seq (k : Nat) (s : State) : (drawWords k s).2.seq = s.seq := by
  induction k generalizing s with
  | zero => rfl
  | succ k ih => simp [drawWords, ih]
@[simp] theorem drawWords_msg (k : Nat) (s : State) : (drawWords k s).2.msg = s.msg := by
  induction k generalizing s with
  | zero => rfl
  | succ k ih => simp [drawWords, ih]
@[simp] theorem drawWords_hostBuf (k : Nat) (s : State) : (drawWords k s).2.hostBuf = s.hostBuf := by
  induction k generalizing s with
  | zero => rfl
  | succ k ih => simp [drawWords, ih]
@[simp] theorem drawWords_dev (k : Nat) (s : State) : (drawWords k s).2.dev = s.dev := by
  induction k generalizing s with
  | zero => rfl
  | succ k ih => simp [drawWords, ih]
@[simp] theorem drawWords_wbuf (k : Nat) (s : State) : (drawWords k s).2.wbuf = s.wbuf := by
  induction k generalizing s with
  | zero => rfl
  | succ k ih => simp [drawWords, ih]
@[simp] theorem drawWords_pfSeen (k : Nat) (s : State) : (drawWords k s).2.pfSeen = s.pfSeen := by
  induction k generalizing s with
  | zero => rfl
  | succ k ih => simp [drawWords, ih]
@[simp] theorem drawWords_result (k : Nat) (s : State) : (drawWords k s).2.result = s.result := by
  induction k generalizing s with
  | zero => rfl
  | succ k ih => simp [drawWords, ih]
@[simp] theorem drawWords_diag (k : Nat) (s : State) : (drawWords k s).2.diag = s.diag := by
  induction k generalizing s with
  | zero => rfl
  | succ k ih => simp [drawWords, ih]
@[simp] theorem drawWords_refusalMark (k : Nat) (s : State) : (drawWords k s).2.refusalMark = s.refusalMark := by
  induction k generalizing s with
  | zero => rfl
  | succ k ih => simp [drawWords, ih]
@[simp] theorem drawWords_sched (k : Nat) (s : State) : (drawWords k s).2.sched = s.sched := by
  induction k generalizing s with
  | zero => rfl
  | succ k ih => simp [drawWords, ih]
@[simp] theorem drawWords_cfg (k : Nat) (s : State) : (drawWords k s).2.cfg = s.cfg := by
  induction k generalizing s with
  | zero => rfl
  | succ k ih => simp [drawWords, ih]

/-- `k` draws answer `k` words. -/
@[simp] theorem drawWords_length (k : Nat) (s : State) : (drawWords k s).1.length = k := by
  induction k generalizing s with
  | zero => rfl
  | succ k ih => simp [drawWords, ih]

@[simp] theorem drawAddr_h (s : State) : (drawAddr s).2.h = s.h := by simp [drawAddr]
@[simp] theorem drawAddr_seq (s : State) : (drawAddr s).2.seq = s.seq := by simp [drawAddr]
@[simp] theorem drawAddr_msg (s : State) : (drawAddr s).2.msg = s.msg := by simp [drawAddr]
@[simp] theorem drawAddr_hostBuf (s : State) : (drawAddr s).2.hostBuf = s.hostBuf := by simp [drawAddr]
@[simp] theorem drawAddr_dev (s : State) : (drawAddr s).2.dev = s.dev := by simp [drawAddr]
@[simp] theorem drawAddr_wbuf (s : State) : (drawAddr s).2.wbuf = s.wbuf := by simp [drawAddr]
@[simp] theorem drawAddr_pfSeen (s : State) : (drawAddr s).2.pfSeen = s.pfSeen := by simp [drawAddr]
@[simp] theorem drawAddr_result (s : State) : (drawAddr s).2.result = s.result := by simp [drawAddr]
@[simp] theorem drawAddr_diag (s : State) : (drawAddr s).2.diag = s.diag := by simp [drawAddr]
@[simp] theorem drawAddr_refusalMark (s : State) : (drawAddr s).2.refusalMark = s.refusalMark := by simp [drawAddr]
@[simp] theorem drawAddr_sched (s : State) : (drawAddr s).2.sched = s.sched := by simp [drawAddr]
@[simp] theorem drawAddr_cfg (s : State) : (drawAddr s).2.cfg = s.cfg := by simp [drawAddr]

@[simp] theorem drawSpeed_h (s : State) : (drawSpeed s).2.h = s.h := by simp [drawSpeed]
@[simp] theorem drawSpeed_seq (s : State) : (drawSpeed s).2.seq = s.seq := by simp [drawSpeed]
@[simp] theorem drawSpeed_msg (s : State) : (drawSpeed s).2.msg = s.msg := by simp [drawSpeed]
@[simp] theorem drawSpeed_hostBuf (s : State) : (drawSpeed s).2.hostBuf = s.hostBuf := by simp [drawSpeed]
@[simp] theorem drawSpeed_dev (s : State) : (drawSpeed s).2.dev = s.dev := by simp [drawSpeed]
@[simp] theorem drawSpeed_wbuf (s : State) : (drawSpeed s).2.wbuf = s.wbuf := by simp [drawSpeed]
@[simp] theorem drawSpeed_pfSeen (s : State) : (drawSpeed s).2.pfSeen = s.pfSeen := by simp [drawSpeed]
@[simp] theorem drawSpeed_result (s : State) : (drawSpeed s).2.result = s.result := by simp [drawSpeed]
@[simp] theorem drawSpeed_diag (s : State) : (drawSpeed s).2.diag = s.diag := by simp [drawSpeed]
@[simp] theorem drawSpeed_refusalMark (s : State) : (drawSpeed s).2.refusalMark = s.refusalMark := by simp [drawSpeed]
@[simp] theorem drawSpeed_sched (s : State) : (drawSpeed s).2.sched = s.sched := by simp [drawSpeed]
@[simp] theorem drawSpeed_cfg (s : State) : (drawSpeed s).2.cfg = s.cfg := by simp [drawSpeed]

@[simp] theorem readPermAddr_h (s : State) : (readPermAddr s).2.h = s.h := by
  unfold readPermAddr; split <;> simp
@[simp] theorem readPermAddr_seq (s : State) : (readPermAddr s).2.seq = s.seq := by
  unfold readPermAddr; split <;> simp
@[simp] theorem readPermAddr_msg (s : State) : (readPermAddr s).2.msg = s.msg := by
  unfold readPermAddr; split <;> simp
@[simp] theorem readPermAddr_hostBuf (s : State) : (readPermAddr s).2.hostBuf = s.hostBuf := by
  unfold readPermAddr; split <;> simp
@[simp] theorem readPermAddr_dev (s : State) : (readPermAddr s).2.dev = s.dev := by
  unfold readPermAddr; split <;> simp
@[simp] theorem readPermAddr_wbuf (s : State) : (readPermAddr s).2.wbuf = s.wbuf := by
  unfold readPermAddr; split <;> simp
@[simp] theorem readPermAddr_pfSeen (s : State) : (readPermAddr s).2.pfSeen = s.pfSeen := by
  unfold readPermAddr; split <;> simp
@[simp] theorem readPermAddr_result (s : State) : (readPermAddr s).2.result = s.result := by
  unfold readPermAddr; split <;> simp
@[simp] theorem readPermAddr_diag (s : State) : (readPermAddr s).2.diag = s.diag := by
  unfold readPermAddr; split <;> simp
@[simp] theorem readPermAddr_refusalMark (s : State) : (readPermAddr s).2.refusalMark = s.refusalMark := by
  unfold readPermAddr; split <;> simp
@[simp] theorem readPermAddr_sched (s : State) : (readPermAddr s).2.sched = s.sched := by
  unfold readPermAddr; split <;> simp
@[simp] theorem readPermAddr_cfg (s : State) : (readPermAddr s).2.cfg = s.cfg := by
  unfold readPermAddr; split <;> simp

/-- While `H.mac_valid = 1` a read of `H.perm_addr` gives its content and changes nothing (R21). -/
@[simp] theorem readPermAddr_valid {s : State} (h : s.h.macValid = true) :
    readPermAddr s = (s.h.permAddr, s) := by simp [readPermAddr, h]

/-! ## Device writes touch only the device and the draws -/

@[simp] theorem functionLevelReset_h (s : State) : (functionLevelReset s).h = s.h := by
  simp [functionLevelReset]
@[simp] theorem functionLevelReset_seq (s : State) : (functionLevelReset s).seq = s.seq := by
  simp [functionLevelReset]
@[simp] theorem functionLevelReset_msg (s : State) : (functionLevelReset s).msg = s.msg := by
  simp [functionLevelReset]
@[simp] theorem functionLevelReset_hostBuf (s : State) : (functionLevelReset s).hostBuf = s.hostBuf := by
  simp [functionLevelReset]
@[simp] theorem functionLevelReset_wbuf (s : State) : (functionLevelReset s).wbuf = s.wbuf := by
  simp [functionLevelReset]
@[simp] theorem functionLevelReset_pfSeen (s : State) : (functionLevelReset s).pfSeen = s.pfSeen := by
  simp [functionLevelReset]
@[simp] theorem functionLevelReset_result (s : State) : (functionLevelReset s).result = s.result := by
  simp [functionLevelReset]
@[simp] theorem functionLevelReset_diag (s : State) : (functionLevelReset s).diag = s.diag := by
  simp [functionLevelReset]
@[simp] theorem functionLevelReset_refusalMark (s : State) : (functionLevelReset s).refusalMark = s.refusalMark := by
  simp [functionLevelReset]
@[simp] theorem functionLevelReset_sched (s : State) : (functionLevelReset s).sched = s.sched := by
  simp [functionLevelReset]
@[simp] theorem functionLevelReset_cfg (s : State) : (functionLevelReset s).cfg = s.cfg := by
  simp [functionLevelReset]

@[simp] theorem writeReg_h (r : Reg) (v : Word) (s : State) : (writeReg r v s).h = s.h := by
  unfold writeReg; split <;> (try split) <;> simp
@[simp] theorem writeReg_seq (r : Reg) (v : Word) (s : State) : (writeReg r v s).seq = s.seq := by
  unfold writeReg; split <;> (try split) <;> simp
@[simp] theorem writeReg_msg (r : Reg) (v : Word) (s : State) : (writeReg r v s).msg = s.msg := by
  unfold writeReg; split <;> (try split) <;> simp
@[simp] theorem writeReg_hostBuf (r : Reg) (v : Word) (s : State) : (writeReg r v s).hostBuf = s.hostBuf := by
  unfold writeReg; split <;> (try split) <;> simp
@[simp] theorem writeReg_wbuf (r : Reg) (v : Word) (s : State) : (writeReg r v s).wbuf = s.wbuf := by
  unfold writeReg; split <;> (try split) <;> simp
@[simp] theorem writeReg_pfSeen (r : Reg) (v : Word) (s : State) : (writeReg r v s).pfSeen = s.pfSeen := by
  unfold writeReg; split <;> (try split) <;> simp
@[simp] theorem writeReg_result (r : Reg) (v : Word) (s : State) : (writeReg r v s).result = s.result := by
  unfold writeReg; split <;> (try split) <;> simp
@[simp] theorem writeReg_diag (r : Reg) (v : Word) (s : State) : (writeReg r v s).diag = s.diag := by
  unfold writeReg; split <;> (try split) <;> simp
@[simp] theorem writeReg_refusalMark (r : Reg) (v : Word) (s : State) : (writeReg r v s).refusalMark = s.refusalMark := by
  unfold writeReg; split <;> (try split) <;> simp
@[simp] theorem writeReg_sched (r : Reg) (v : Word) (s : State) : (writeReg r v s).sched = s.sched := by
  unfold writeReg; split <;> (try split) <;> simp
@[simp] theorem writeReg_cfg (r : Reg) (v : Word) (s : State) : (writeReg r v s).cfg = s.cfg := by
  unfold writeReg; split <;> (try split) <;> simp

@[simp] theorem applyWrite_h (e : Nat × Word) (s : State) : (applyWrite e s).h = s.h := by
  unfold applyWrite; split <;> (try split) <;> simp
@[simp] theorem applyWrite_seq (e : Nat × Word) (s : State) : (applyWrite e s).seq = s.seq := by
  unfold applyWrite; split <;> (try split) <;> simp
@[simp] theorem applyWrite_msg (e : Nat × Word) (s : State) : (applyWrite e s).msg = s.msg := by
  unfold applyWrite; split <;> (try split) <;> simp
@[simp] theorem applyWrite_hostBuf (e : Nat × Word) (s : State) : (applyWrite e s).hostBuf = s.hostBuf := by
  unfold applyWrite; split <;> (try split) <;> simp
@[simp] theorem applyWrite_wbuf (e : Nat × Word) (s : State) : (applyWrite e s).wbuf = s.wbuf := by
  unfold applyWrite; split <;> (try split) <;> simp
@[simp] theorem applyWrite_pfSeen (e : Nat × Word) (s : State) : (applyWrite e s).pfSeen = s.pfSeen := by
  unfold applyWrite; split <;> (try split) <;> simp
@[simp] theorem applyWrite_result (e : Nat × Word) (s : State) : (applyWrite e s).result = s.result := by
  unfold applyWrite; split <;> (try split) <;> simp
@[simp] theorem applyWrite_diag (e : Nat × Word) (s : State) : (applyWrite e s).diag = s.diag := by
  unfold applyWrite; split <;> (try split) <;> simp
@[simp] theorem applyWrite_refusalMark (e : Nat × Word) (s : State) : (applyWrite e s).refusalMark = s.refusalMark := by
  unfold applyWrite; split <;> (try split) <;> simp
@[simp] theorem applyWrite_sched (e : Nat × Word) (s : State) : (applyWrite e s).sched = s.sched := by
  unfold applyWrite; split <;> (try split) <;> simp
@[simp] theorem applyWrite_cfg (e : Nat × Word) (s : State) : (applyWrite e s).cfg = s.cfg := by
  unfold applyWrite; split <;> (try split) <;> simp

@[simp] theorem applyAll_h (es : List (Nat × Word)) (s : State) :
    (applyAll es s).h = s.h := by
  induction es generalizing s with
  | nil => rfl
  | cons e es ih => simp [applyAll, ih]
@[simp] theorem applyAll_seq (es : List (Nat × Word)) (s : State) :
    (applyAll es s).seq = s.seq := by
  induction es generalizing s with
  | nil => rfl
  | cons e es ih => simp [applyAll, ih]
@[simp] theorem applyAll_msg (es : List (Nat × Word)) (s : State) :
    (applyAll es s).msg = s.msg := by
  induction es generalizing s with
  | nil => rfl
  | cons e es ih => simp [applyAll, ih]
@[simp] theorem applyAll_hostBuf (es : List (Nat × Word)) (s : State) :
    (applyAll es s).hostBuf = s.hostBuf := by
  induction es generalizing s with
  | nil => rfl
  | cons e es ih => simp [applyAll, ih]
@[simp] theorem applyAll_wbuf (es : List (Nat × Word)) (s : State) :
    (applyAll es s).wbuf = s.wbuf := by
  induction es generalizing s with
  | nil => rfl
  | cons e es ih => simp [applyAll, ih]
@[simp] theorem applyAll_pfSeen (es : List (Nat × Word)) (s : State) :
    (applyAll es s).pfSeen = s.pfSeen := by
  induction es generalizing s with
  | nil => rfl
  | cons e es ih => simp [applyAll, ih]
@[simp] theorem applyAll_result (es : List (Nat × Word)) (s : State) :
    (applyAll es s).result = s.result := by
  induction es generalizing s with
  | nil => rfl
  | cons e es ih => simp [applyAll, ih]
@[simp] theorem applyAll_diag (es : List (Nat × Word)) (s : State) :
    (applyAll es s).diag = s.diag := by
  induction es generalizing s with
  | nil => rfl
  | cons e es ih => simp [applyAll, ih]
@[simp] theorem applyAll_refusalMark (es : List (Nat × Word)) (s : State) :
    (applyAll es s).refusalMark = s.refusalMark := by
  induction es generalizing s with
  | nil => rfl
  | cons e es ih => simp [applyAll, ih]
@[simp] theorem applyAll_sched (es : List (Nat × Word)) (s : State) :
    (applyAll es s).sched = s.sched := by
  induction es generalizing s with
  | nil => rfl
  | cons e es ih => simp [applyAll, ih]
@[simp] theorem applyAll_cfg (es : List (Nat × Word)) (s : State) :
    (applyAll es s).cfg = s.cfg := by
  induction es generalizing s with
  | nil => rfl
  | cons e es ih => simp [applyAll, ih]

@[simp] theorem drainAll_h (s : State) : (drainAll s).h = s.h := by simp [drainAll]
@[simp] theorem drainOne_h (s : State) : (drainOne s).h = s.h := by
  unfold drainOne; split <;> simp
@[simp] theorem drainAll_seq (s : State) : (drainAll s).seq = s.seq := by simp [drainAll]
@[simp] theorem drainOne_seq (s : State) : (drainOne s).seq = s.seq := by
  unfold drainOne; split <;> simp
@[simp] theorem drainAll_msg (s : State) : (drainAll s).msg = s.msg := by simp [drainAll]
@[simp] theorem drainOne_msg (s : State) : (drainOne s).msg = s.msg := by
  unfold drainOne; split <;> simp
@[simp] theorem drainAll_hostBuf (s : State) : (drainAll s).hostBuf = s.hostBuf := by simp [drainAll]
@[simp] theorem drainOne_hostBuf (s : State) : (drainOne s).hostBuf = s.hostBuf := by
  unfold drainOne; split <;> simp
/-- After the drain no posted write is pending (R61, R64). -/
@[simp] theorem drainAll_wbuf (s : State) : (drainAll s).wbuf = [] := by simp [drainAll]
@[simp] theorem drainOne_wbuf (s : State) : (drainOne s).wbuf = s.wbuf.tail := by
  unfold drainOne; split <;> simp [*]
@[simp] theorem drainAll_pfSeen (s : State) : (drainAll s).pfSeen = s.pfSeen := by simp [drainAll]
@[simp] theorem drainOne_pfSeen (s : State) : (drainOne s).pfSeen = s.pfSeen := by
  unfold drainOne; split <;> simp
@[simp] theorem drainAll_result (s : State) : (drainAll s).result = s.result := by simp [drainAll]
@[simp] theorem drainOne_result (s : State) : (drainOne s).result = s.result := by
  unfold drainOne; split <;> simp
@[simp] theorem drainAll_diag (s : State) : (drainAll s).diag = s.diag := by simp [drainAll]
@[simp] theorem drainOne_diag (s : State) : (drainOne s).diag = s.diag := by
  unfold drainOne; split <;> simp
@[simp] theorem drainAll_refusalMark (s : State) : (drainAll s).refusalMark = s.refusalMark := by simp [drainAll]
@[simp] theorem drainOne_refusalMark (s : State) : (drainOne s).refusalMark = s.refusalMark := by
  unfold drainOne; split <;> simp
@[simp] theorem drainAll_sched (s : State) : (drainAll s).sched = s.sched := by simp [drainAll]
@[simp] theorem drainOne_sched (s : State) : (drainOne s).sched = s.sched := by
  unfold drainOne; split <;> simp
@[simp] theorem drainAll_cfg (s : State) : (drainAll s).cfg = s.cfg := by simp [drainAll]
@[simp] theorem drainOne_cfg (s : State) : (drainOne s).cfg = s.cfg := by
  unfold drainOne; split <;> simp

/-! ## A device that is gone stays as it is (R50, R62) -/

/-- No device write makes the device present or gone. -/
@[simp] theorem fillMbmem_removed (win : Config.Window) (ws : List Word) (i : Nat) (d : Device) :
    (fillMbmem win i ws d).removed = d.removed := by
  induction ws generalizing i d with
  | nil => rfl
  | cons w ws ih => simp [fillMbmem, ih, Device.setMbmemWord]

@[simp] theorem writeReg_removed (r : Reg) (v : Word) (s : State) :
    (writeReg r v s).dev.removed = s.dev.removed := by
  unfold writeReg
  split <;> (try split) <;>
    simp [functionLevelReset, resetRegs, applyMbx, Device.setMbmemWord]

@[simp] theorem applyWrite_removed (e : Nat × Word) (s : State) :
    (applyWrite e s).dev.removed = s.dev.removed := by
  unfold applyWrite; split <;> (try split) <;> simp

/-- While the device is removed an applied write has no effect (R62). -/
theorem applyWrite_gone {s : State} (h : s.dev.removed = true) (e : Nat × Word) :
    applyWrite e s = s := by simp [applyWrite, h]

@[simp] theorem applyAll_removed (es : List (Nat × Word)) (s : State) :
    (applyAll es s).dev.removed = s.dev.removed := by
  induction es generalizing s with
  | nil => rfl
  | cons e es ih => simp [applyAll, ih]

@[simp] theorem drainAll_removed (s : State) : (drainAll s).dev.removed = s.dev.removed := by
  simp [drainAll]

/-- Draining an empty queue changes nothing. -/
theorem drainAll_nil {s : State} (h : s.wbuf = []) : drainAll s = s := by
  cases s; simp_all [drainAll, applyAll]

/-! ## Register reads touch only the draws, then the record of removal -/

@[simp] theorem readReg_h (r : Reg) (s : State) : (readReg r s).2.h = s.h := by
  unfold readReg; split <;> simp
@[simp] theorem readReg_seq (r : Reg) (s : State) : (readReg r s).2.seq = s.seq := by
  unfold readReg; split <;> simp
@[simp] theorem readReg_msg (r : Reg) (s : State) : (readReg r s).2.msg = s.msg := by
  unfold readReg; split <;> simp
@[simp] theorem readReg_hostBuf (r : Reg) (s : State) : (readReg r s).2.hostBuf = s.hostBuf := by
  unfold readReg; split <;> simp
@[simp] theorem readReg_dev (r : Reg) (s : State) : (readReg r s).2.dev = s.dev := by
  unfold readReg; split <;> simp
@[simp] theorem readReg_wbuf (r : Reg) (s : State) : (readReg r s).2.wbuf = s.wbuf := by
  unfold readReg; split <;> simp
@[simp] theorem readReg_pfSeen (r : Reg) (s : State) : (readReg r s).2.pfSeen = s.pfSeen := by
  unfold readReg; split <;> simp
@[simp] theorem readReg_result (r : Reg) (s : State) : (readReg r s).2.result = s.result := by
  unfold readReg; split <;> simp
@[simp] theorem readReg_diag (r : Reg) (s : State) : (readReg r s).2.diag = s.diag := by
  unfold readReg; split <;> simp
@[simp] theorem readReg_refusalMark (r : Reg) (s : State) : (readReg r s).2.refusalMark = s.refusalMark := by
  unfold readReg; split <;> simp
@[simp] theorem readReg_sched (r : Reg) (s : State) : (readReg r s).2.sched = s.sched := by
  unfold readReg; split <;> simp
@[simp] theorem readReg_cfg (r : Reg) (s : State) : (readReg r s).2.cfg = s.cfg := by
  unfold readReg; split <;> simp

@[simp] theorem sampleReg_h (r : Reg) (s : State) : (sampleReg r s).2.h = s.h := by
  unfold sampleReg; split <;> simp
@[simp] theorem sampleReg_seq (r : Reg) (s : State) : (sampleReg r s).2.seq = s.seq := by
  unfold sampleReg; split <;> simp
@[simp] theorem sampleReg_msg (r : Reg) (s : State) : (sampleReg r s).2.msg = s.msg := by
  unfold sampleReg; split <;> simp
@[simp] theorem sampleReg_hostBuf (r : Reg) (s : State) : (sampleReg r s).2.hostBuf = s.hostBuf := by
  unfold sampleReg; split <;> simp
@[simp] theorem sampleReg_dev (r : Reg) (s : State) : (sampleReg r s).2.dev = s.dev := by
  unfold sampleReg; split <;> simp
@[simp] theorem sampleReg_wbuf (r : Reg) (s : State) : (sampleReg r s).2.wbuf = s.wbuf := by
  unfold sampleReg; split <;> simp
@[simp] theorem sampleReg_pfSeen (r : Reg) (s : State) : (sampleReg r s).2.pfSeen = s.pfSeen := by
  unfold sampleReg; split <;> simp
@[simp] theorem sampleReg_result (r : Reg) (s : State) : (sampleReg r s).2.result = s.result := by
  unfold sampleReg; split <;> simp
@[simp] theorem sampleReg_diag (r : Reg) (s : State) : (sampleReg r s).2.diag = s.diag := by
  unfold sampleReg; split <;> simp
@[simp] theorem sampleReg_refusalMark (r : Reg) (s : State) : (sampleReg r s).2.refusalMark = s.refusalMark := by
  unfold sampleReg; split <;> simp
@[simp] theorem sampleReg_sched (r : Reg) (s : State) : (sampleReg r s).2.sched = s.sched := by
  unfold sampleReg; split <;> simp
@[simp] theorem sampleReg_cfg (r : Reg) (s : State) : (sampleReg r s).2.cfg = s.cfg := by
  unfold sampleReg; split <;> simp

@[simp] theorem confirmRemoval_seq (r : Reg) (v : Word) (s : State) :
    (confirmRemoval r v s).seq = s.seq := by
  simp only [confirmRemoval]; repeat' split
  all_goals simp
@[simp] theorem confirmRemoval_msg (r : Reg) (v : Word) (s : State) :
    (confirmRemoval r v s).msg = s.msg := by
  simp only [confirmRemoval]; repeat' split
  all_goals simp
@[simp] theorem confirmRemoval_hostBuf (r : Reg) (v : Word) (s : State) :
    (confirmRemoval r v s).hostBuf = s.hostBuf := by
  simp only [confirmRemoval]; repeat' split
  all_goals simp
@[simp] theorem confirmRemoval_dev (r : Reg) (v : Word) (s : State) :
    (confirmRemoval r v s).dev = s.dev := by
  simp only [confirmRemoval]; repeat' split
  all_goals simp
@[simp] theorem confirmRemoval_wbuf (r : Reg) (v : Word) (s : State) :
    (confirmRemoval r v s).wbuf = s.wbuf := by
  simp only [confirmRemoval]; repeat' split
  all_goals simp
@[simp] theorem confirmRemoval_pfSeen (r : Reg) (v : Word) (s : State) :
    (confirmRemoval r v s).pfSeen = s.pfSeen := by
  simp only [confirmRemoval]; repeat' split
  all_goals simp
@[simp] theorem confirmRemoval_result (r : Reg) (v : Word) (s : State) :
    (confirmRemoval r v s).result = s.result := by
  simp only [confirmRemoval]; repeat' split
  all_goals simp
@[simp] theorem confirmRemoval_diag (r : Reg) (v : Word) (s : State) :
    (confirmRemoval r v s).diag = s.diag := by
  simp only [confirmRemoval]; repeat' split
  all_goals simp
@[simp] theorem confirmRemoval_refusalMark (r : Reg) (v : Word) (s : State) :
    (confirmRemoval r v s).refusalMark = s.refusalMark := by
  simp only [confirmRemoval]; repeat' split
  all_goals simp
@[simp] theorem confirmRemoval_sched (r : Reg) (v : Word) (s : State) :
    (confirmRemoval r v s).sched = s.sched := by
  simp only [confirmRemoval]; repeat' split
  all_goals simp
@[simp] theorem confirmRemoval_cfg (r : Reg) (v : Word) (s : State) :
    (confirmRemoval r v s).cfg = s.cfg := by
  simp only [confirmRemoval]; repeat' split
  all_goals simp

/-- The removal check writes no handle register but `H.removed` (R61). -/
theorem confirmRemoval_h (r : Reg) (v : Word) (s : State) :
    (confirmRemoval r v s).h = { s.h with removed := (confirmRemoval r v s).h.removed } := by
  simp only [confirmRemoval]; repeat' split
  all_goals simp

/-- A value that is not all-ones confirms nothing (R61). -/
@[simp] theorem confirmRemoval_other (r : Reg) {v : Word} (h : v ≠ allOnes) (s : State) :
    confirmRemoval r v s = s := by simp [confirmRemoval, h]

/-- `H.removed` is sticky (R33). -/
theorem confirmRemoval_sticky (r : Reg) (v : Word) {s : State} (h : s.h.removed = true) :
    (confirmRemoval r v s).h.removed = true := by
  simp only [confirmRemoval]; repeat' split
  all_goals simp [h]

/-! ## `RegRead` (R61) -/

@[simp] theorem regRead_seq (r : Reg) (s : State) : (regRead r s).2.seq = s.seq := by
  unfold regRead; split <;> simp
@[simp] theorem regRead_msg (r : Reg) (s : State) : (regRead r s).2.msg = s.msg := by
  unfold regRead; split <;> simp
@[simp] theorem regRead_hostBuf (r : Reg) (s : State) : (regRead r s).2.hostBuf = s.hostBuf := by
  unfold regRead; split <;> simp
@[simp] theorem regRead_pfSeen (r : Reg) (s : State) : (regRead r s).2.pfSeen = s.pfSeen := by
  unfold regRead; split <;> simp
@[simp] theorem regRead_result (r : Reg) (s : State) : (regRead r s).2.result = s.result := by
  unfold regRead; split <;> simp
@[simp] theorem regRead_diag (r : Reg) (s : State) : (regRead r s).2.diag = s.diag := by
  unfold regRead; split <;> simp
@[simp] theorem regRead_refusalMark (r : Reg) (s : State) : (regRead r s).2.refusalMark = s.refusalMark := by
  unfold regRead; split <;> simp
@[simp] theorem regRead_sched (r : Reg) (s : State) : (regRead r s).2.sched = s.sched := by
  unfold regRead; split <;> simp
@[simp] theorem regRead_cfg (r : Reg) (s : State) : (regRead r s).2.cfg = s.cfg := by
  unfold regRead; split <;> simp

/-- `RegRead` writes no handle register but `H.removed` (R61). -/
theorem regRead_h (r : Reg) (s : State) :
    (regRead r s).2.h = { s.h with removed := (regRead r s).2.h.removed } := by
  unfold regRead; split
  · rfl
  · simp only; rw [confirmRemoval_h]; simp

/-- Once the block knows the device is gone, `RegRead` makes no device access: it answers all-ones and
changes nothing (R61, R69). -/
@[simp] theorem regRead_short {r : Reg} {s : State} (h : s.h.removed = true) :
    regRead r s = (allOnes, s) := by simp [regRead, h]

/-- `H.removed` is sticky (R33). -/
theorem regRead_sticky {r : Reg} {s : State} (h : s.h.removed = true) :
    (regRead r s).2.h.removed = true := by simp [h]

/-- `RegRead` while the block does not know of a removal: the drain, the sample, the removal check
(R61). -/
theorem regRead_live {r : Reg} {s : State} (h : s.h.removed = false) :
    regRead r s = ((sampleReg r (drainAll s)).1,
      confirmRemoval r (sampleReg r (drainAll s)).1 (sampleReg r (drainAll s)).2) := by
  simp [regRead, h]

/-- After a `RegRead` no posted write is pending, or the block knows of the removal (R63, R64). -/
theorem regRead_drains (r : Reg) (s : State) :
    (regRead r s).2.wbuf = [] ∨ (regRead r s).2.h.removed = true := by
  cases h : s.h.removed with
  | true => right; simp [h]
  | false => left; simp [regRead_live h]

/-- The device side of a live `RegRead` is the drained device (R61). -/
theorem regRead_dev {r : Reg} {s : State} (h : s.h.removed = false) :
    (regRead r s).2.dev = (drainAll s).dev := by simp [regRead_live h]

/-- A sample of `MBX` of a present device answers its four status bits (R71). -/
theorem sampleReg_mbx {s : State} (h : s.dev.removed = false) :
    sampleReg .mbx s = (mbxWord s.cfg.window s.dev.vfu s.dev.pfu s.dev.pfsts s.dev.rstip, s) := by
  simp [sampleReg, readReg, h]

/-- A shifted one has one set bit. -/
@[simp] theorem getLsbD_bitMask (k j : Nat) : (bitMask k).getLsbD j = (decide (j < 32) && j == k) := by
  rw [Bool.eq_iff_iff]
  simp only [bitMask, BitVec.getLsbD_shiftLeft, BitVec.getLsbD_one, Bool.and_eq_true, Bool.not_eq_true',
    decide_eq_true_eq, decide_eq_false_iff_not, beq_iff_eq]
  omega

/-- The bits a read of `MBX` shows (R71). -/
theorem mbxWord_bit (w : Config.Window) (a b c d : Bool) (j : Nat) :
    (mbxWord w a b c d).getLsbD j = (decide (j < 32) && ((j == w.mbxVfu && a) || (j == w.mbxPfu && b)
      || (j == w.mbxPfsts && c) || (j == w.mbxRstip && d))) := by
  cases a <;> cases b <;> cases c <;> cases d <;> simp [mbxWord] <;>
    cases decide (j < 32) <;> simp

/-- A sample of `MBX` is never all-ones: at most four of its bits are set. -/
theorem mbxWord_ne_allOnes (w : Config.Window) (a b c d : Bool) : mbxWord w a b c d ≠ allOnes := by
  intro h
  have key : ∀ j, j < 32 → j = w.mbxVfu ∨ j = w.mbxPfu ∨ j = w.mbxPfsts ∨ j = w.mbxRstip := by
    intro j hj
    have hb := congrArg (fun v : Word => v.getLsbD j) h
    simp only [mbxWord_bit] at hb
    have hall : (allOnes : Word).getLsbD j = true := by
      interval_cases j <;> decide
    rw [hall] at hb
    simp at hb
    omega
  have h0 := key 0 (by omega)
  have h1 := key 1 (by omega)
  have h2 := key 2 (by omega)
  have h3 := key 3 (by omega)
  have h4 := key 4 (by omega)
  omega

section Samples

variable {w : Config.Window} {words queues : Nat}

theorem showsReset_mbxWord (h : w.Ok words queues) (a b c d : Bool) :
    showsReset w (mbxWord w a b c d) = d := by
  have hn := h.mbxBitsNodup
  have hb := h.bitsInside w.mbxRstip (by simp [Config.Window.mbxBits])
  simp only [Config.Window.mbxBits, List.nodup_cons, List.mem_cons, not_or] at hn
  simp only [showsReset, hasBit]
  rw [mbxWord_bit]
  have : ∀ x y : Nat, (x == y) = decide (x = y) := fun x y => rfl
  simp only [this, hb, decide_true, Bool.true_and]
  rcases hn with ⟨h1, h2, h3, h4, h5⟩
  simp_all [eq_comm]

theorem showsLock_mbxWord (h : w.Ok words queues) (a b c d : Bool) :
    showsLock w (mbxWord w a b c d) = a := by
  have hn := h.mbxBitsNodup
  have hb := h.bitsInside w.mbxVfu (by simp [Config.Window.mbxBits])
  simp only [Config.Window.mbxBits, List.nodup_cons, List.mem_cons, not_or] at hn
  simp only [showsLock, hasBit]
  rw [mbxWord_bit]
  have : ∀ x y : Nat, (x == y) = decide (x = y) := fun x y => rfl
  simp only [this, hb, decide_true, Bool.true_and]
  rcases hn with ⟨h1, h2, h3, h4, h5⟩
  simp_all

theorem showsReply_mbxWord (h : w.Ok words queues) (a b c d : Bool) :
    showsReply w (mbxWord w a b c d) = c := by
  have hn := h.mbxBitsNodup
  have hb := h.bitsInside w.mbxPfsts (by simp [Config.Window.mbxBits])
  simp only [Config.Window.mbxBits, List.nodup_cons, List.mem_cons, not_or] at hn
  simp only [showsReply, hasBit]
  rw [mbxWord_bit]
  have : ∀ x y : Nat, (x == y) = decide (x = y) := fun x y => rfl
  simp only [this, hb, decide_true, Bool.true_and]
  rcases hn with ⟨h1, h2, h3, h4, h5⟩
  simp_all [eq_comm]

end Samples

/-- A read of `MBX` of a present device: the drained device's status bits, and nothing but the drain
happens (R61, R71). -/
theorem regRead_mbx {s : State} (h : s.h.removed = false) (hd : s.dev.removed = false) :
    regRead .mbx s = (mbxWord s.cfg.window (drainAll s).dev.vfu (drainAll s).dev.pfu (drainAll s).dev.pfsts
      (drainAll s).dev.rstip, drainAll s) := by
  rw [regRead_live h, sampleReg_mbx (by simpa using hd),
    confirmRemoval_other _ (mbxWord_ne_allOnes _ _ _ _ _)]
  simp

/-- A read of a removed device that the block does not know of yet finds the removal out (R61, R69). -/
theorem regRead_discovers {r : Reg} {s : State} (h : s.h.removed = false)
    (hd : s.dev.removed = true) :
    regRead r s = (allOnes, markRemoved (drainAll s)) := by
  have hs : ∀ q, sampleReg q (drainAll s) = (allOnes, drainAll s) := fun q => by
    simp [sampleReg, hd]
  rw [regRead_live h, hs]
  by_cases hr : r = .status <;> simp [confirmRemoval, hr, hs]

/-! ## `RegWrite` and `Flush` (R62, R63) -/

@[simp] theorem regWrite_h (r : Reg) (v : Word) (s : State) : (regWrite r v s).h = s.h := by
  unfold regWrite; split <;> rfl
@[simp] theorem regWrite_seq (r : Reg) (v : Word) (s : State) : (regWrite r v s).seq = s.seq := by
  unfold regWrite; split <;> rfl
@[simp] theorem regWrite_msg (r : Reg) (v : Word) (s : State) : (regWrite r v s).msg = s.msg := by
  unfold regWrite; split <;> rfl
@[simp] theorem regWrite_hostBuf (r : Reg) (v : Word) (s : State) : (regWrite r v s).hostBuf = s.hostBuf := by
  unfold regWrite; split <;> rfl
@[simp] theorem regWrite_dev (r : Reg) (v : Word) (s : State) : (regWrite r v s).dev = s.dev := by
  unfold regWrite; split <;> rfl
@[simp] theorem regWrite_pfSeen (r : Reg) (v : Word) (s : State) : (regWrite r v s).pfSeen = s.pfSeen := by
  unfold regWrite; split <;> rfl
@[simp] theorem regWrite_result (r : Reg) (v : Word) (s : State) : (regWrite r v s).result = s.result := by
  unfold regWrite; split <;> rfl
@[simp] theorem regWrite_diag (r : Reg) (v : Word) (s : State) : (regWrite r v s).diag = s.diag := by
  unfold regWrite; split <;> rfl
@[simp] theorem regWrite_refusalMark (r : Reg) (v : Word) (s : State) : (regWrite r v s).refusalMark = s.refusalMark := by
  unfold regWrite; split <;> rfl
@[simp] theorem regWrite_sched (r : Reg) (v : Word) (s : State) : (regWrite r v s).sched = s.sched := by
  unfold regWrite; split <;> rfl
@[simp] theorem regWrite_cfg (r : Reg) (v : Word) (s : State) : (regWrite r v s).cfg = s.cfg := by
  unfold regWrite; split <;> rfl
@[simp] theorem regWrite_tape (r : Reg) (v : Word) (s : State) : (regWrite r v s).tape = s.tape := by
  unfold regWrite; split <;> rfl
@[simp] theorem regWrite_drawn (r : Reg) (v : Word) (s : State) : (regWrite r v s).drawn = s.drawn := by
  unfold regWrite; split <;> rfl

/-- A posted write goes to the end of the queue (R62). -/
theorem regWrite_live {s : State} (h : s.h.removed = false) (r : Reg) (v : Word) :
    regWrite r v s = { s with wbuf := s.wbuf ++ [(r.offset s.cfg, v)] } := by simp [regWrite, h]

/-- Once the block knows the device is gone, a write is dropped (R62). -/
@[simp] theorem regWrite_short {s : State} (h : s.h.removed = true) (r : Reg) (v : Word) :
    regWrite r v s = s := by simp [regWrite, h]

@[simp] theorem flush_seq (s : State) : (flush s).seq = s.seq := by simp [flush]
@[simp] theorem flush_msg (s : State) : (flush s).msg = s.msg := by simp [flush]
@[simp] theorem flush_hostBuf (s : State) : (flush s).hostBuf = s.hostBuf := by simp [flush]
@[simp] theorem flush_pfSeen (s : State) : (flush s).pfSeen = s.pfSeen := by simp [flush]
@[simp] theorem flush_result (s : State) : (flush s).result = s.result := by simp [flush]
@[simp] theorem flush_diag (s : State) : (flush s).diag = s.diag := by simp [flush]
@[simp] theorem flush_refusalMark (s : State) : (flush s).refusalMark = s.refusalMark := by simp [flush]
@[simp] theorem flush_sched (s : State) : (flush s).sched = s.sched := by simp [flush]
@[simp] theorem flush_cfg (s : State) : (flush s).cfg = s.cfg := by simp [flush]

/-- `Flush` writes no handle register but `H.removed` (R63). -/
theorem flush_h (s : State) : (flush s).h = { s.h with removed := (flush s).h.removed } :=
  regRead_h _ _

/-- After a `Flush` no posted write is pending, or the block knows of the removal (R63). -/
theorem flush_drains (s : State) : (flush s).wbuf = [] ∨ (flush s).h.removed = true :=
  regRead_drains _ _

/-- A `Flush` once the block knows of the removal changes nothing (R69). -/
@[simp] theorem flush_short {s : State} (h : s.h.removed = true) : flush s = s := by simp [flush, h]

/-! ## Acceptance and the sequencer (R35) -/

/-- A command offered to an idle block is admitted as its rule says. -/
theorem command_idle {i : Instr} {offer : State → State} {body : Frame → State → Outcome} {s : State}
    (h : s.seq = .idle) : command i offer body s = .next (offer s) := by simp [command, h]

/-- A running command with no update pending makes its next step. -/
theorem command_running {i : Instr} {offer : State → State} {body : Frame → State → Outcome}
    {s : State} {f : Frame} (h : s.seq = .busy f) (hc : f.cmd = i) (ht : f.todo = []) :
    command i offer body s = body f s := by simp [command, h, hc, ht]

/-- A running command with an update pending makes that update. -/
theorem command_pending {i : Instr} {offer : State → State} {body : Frame → State → Outcome}
    {s : State} {f : Frame} (h : s.seq = .busy f) (hc : f.cmd = i) (ht : f.todo ≠ []) :
    command i offer body s = .next (runNext s) := by simp [command, h, hc, ht, runNext]

/-- A command offered while another runs is refused (R83). -/
theorem command_other {i : Instr} {offer : State → State} {body : Frame → State → Outcome}
    {s : State} {f : Frame} (h : s.seq = .busy f) (hc : f.cmd ≠ i) :
    command i offer body s = .next (refuse s) := by simp [command, h, hc]

/-- What a command can answer: what its admission says, a pending update, what its body says, or a refusal
mark. -/
theorem command_cases {i : Instr} {offer : State → State} {body : Frame → State → Outcome}
    {s : State} {o : Outcome} (h : command i offer body s = o) :
    (s.seq = .idle ∧ o = .next (offer s)) ∨
      (∃ f, s.seq = .busy f ∧ f.cmd = i ∧ f.todo ≠ [] ∧ o = .next (runNext s)) ∨
      (∃ f, s.seq = .busy f ∧ f.cmd = i ∧ f.todo = [] ∧ o = body f s) ∨
      (∃ f, s.seq = .busy f ∧ f.cmd ≠ i ∧ o = .next (refuse s)) := by
  subst h
  cases hs : s.seq with
  | idle => exact .inl ⟨rfl, command_idle hs⟩
  | busy f =>
    by_cases hc : f.cmd = i
    · by_cases ht : f.todo = []
      · exact .inr (.inr (.inl ⟨f, rfl, hc, ht, command_running hs hc ht⟩))
      · exact .inr (.inl ⟨f, rfl, hc, ht, command_pending hs hc ht⟩)
    · exact .inr (.inr (.inr ⟨f, rfl, hc, command_other hs hc⟩))

/-- Writing a message over a buffer keeps the buffer's length (R36). -/
@[simp] theorem overlay_length (ws buf : List Word) : (overlay ws buf).length = buf.length := by
  simp [overlay]; omega

@[simp] theorem setWord_length (ws : List Word) (i : Nat) (w : Word) :
    (setWord ws i w).length = ws.length := by simp [setWord]

end Sys2Proof.Machine
end

