-- ==== Sys2Proof/Laws/Pending.lean ====
section
/-!
SUPPORT. The internal updates of the block: what one of them touches, and what the pending ones lead to.
-/

namespace Sys2Proof.Machine

open Sys2Proof

/-! ## One update touches the block's own state only -/

@[simp] theorem storeWord_dev (c : Instr) (i : Nat) (w : Word) (s : State) :
    (storeWord c i w s).dev = s.dev := by unfold storeWord; split <;> rfl
@[simp] theorem storeWord_wbuf (c : Instr) (i : Nat) (w : Word) (s : State) :
    (storeWord c i w s).wbuf = s.wbuf := by unfold storeWord; split <;> rfl
@[simp] theorem storeWord_pfSeen (c : Instr) (i : Nat) (w : Word) (s : State) :
    (storeWord c i w s).pfSeen = s.pfSeen := by unfold storeWord; split <;> rfl
@[simp] theorem storeWord_refusalMark (c : Instr) (i : Nat) (w : Word) (s : State) :
    (storeWord c i w s).refusalMark = s.refusalMark := by unfold storeWord; split <;> rfl
@[simp] theorem storeWord_sched (c : Instr) (i : Nat) (w : Word) (s : State) :
    (storeWord c i w s).sched = s.sched := by unfold storeWord; split <;> rfl
@[simp] theorem storeWord_cfg (c : Instr) (i : Nat) (w : Word) (s : State) :
    (storeWord c i w s).cfg = s.cfg := by unfold storeWord; split <;> rfl
@[simp] theorem storeWord_h (c : Instr) (i : Nat) (w : Word) (s : State) :
    (storeWord c i w s).h = s.h := by unfold storeWord; split <;> rfl
@[simp] theorem storeWord_seq (c : Instr) (i : Nat) (w : Word) (s : State) :
    (storeWord c i w s).seq = s.seq := by unfold storeWord; split <;> rfl
@[simp] theorem storeWord_msg_length (c : Instr) (i : Nat) (w : Word) (s : State) :
    (storeWord c i w s).msg.length = s.msg.length := by unfold storeWord; split <;> simp
@[simp] theorem storeWord_hostBuf_length (c : Instr) (i : Nat) (w : Word) (s : State) :
    (storeWord c i w s).hostBuf.length = s.hostBuf.length := by unfold storeWord; split <;> simp

@[simp] theorem runPrim_dev (p : Prim) (s : State) : (runPrim p s).dev = s.dev := by
  cases p <;> simp only [runPrim] <;> (try split) <;> simp
@[simp] theorem runPrim_wbuf (p : Prim) (s : State) : (runPrim p s).wbuf = s.wbuf := by
  cases p <;> simp only [runPrim] <;> (try split) <;> simp
@[simp] theorem runPrim_pfSeen (p : Prim) (s : State) : (runPrim p s).pfSeen = s.pfSeen := by
  cases p <;> simp only [runPrim] <;> (try split) <;> simp
@[simp] theorem runPrim_refusalMark (p : Prim) (s : State) : (runPrim p s).refusalMark = s.refusalMark := by
  cases p <;> simp only [runPrim] <;> (try split) <;> simp
@[simp] theorem runPrim_sched (p : Prim) (s : State) : (runPrim p s).sched = s.sched := by
  cases p <;> simp only [runPrim] <;> (try split) <;> simp
@[simp] theorem runPrim_cfg (p : Prim) (s : State) : (runPrim p s).cfg = s.cfg := by
  cases p <;> simp only [runPrim] <;> (try split) <;> simp
@[simp] theorem runPrim_msg_length (p : Prim) (s : State) :
    (runPrim p s).msg.length = s.msg.length := by
  cases p <;> simp only [runPrim] <;> (try split) <;> simp
@[simp] theorem runPrim_hostBuf_length (p : Prim) (s : State) :
    (runPrim p s).hostBuf.length = s.hostBuf.length := by
  cases p <;> simp only [runPrim] <;> (try split) <;> simp
@[simp] theorem runPrim_removed (p : Prim) (s : State) :
    (runPrim p s).h.removed = s.h.removed := by
  cases p <;> simp only [runPrim] <;> (try split) <;> simp
@[simp] theorem runPrim_reta_length (p : Prim) (s : State) :
    (runPrim p s).h.reta.length = s.h.reta.length := by
  cases p <;> simp only [runPrim] <;> (try split) <;> simp

/-- Only a `return` or `raise` makes the sequencer idle (R35, R262). -/
theorem runPrim_idle {p : Prim} {s : State} {f : Frame} (h : s.seq = .busy f) :
    (runPrim p s).seq = .idle ↔ p.isEnd = true := by
  cases p <;> simp only [runPrim] <;> (try split) <;> simp_all [Prim.isEnd]

/-- Every other update leaves the frame's command, position and pending list alone. -/
theorem runPrim_busy {p : Prim} {s : State} {f : Frame} (h : s.seq = .busy f)
    (hp : p.isEnd = false) :
    ∃ r, (runPrim p s).seq = .busy { f with req := r } := by
  cases p with
  | hash v => exact ⟨addVector v f.req, by simp [runPrim, h]⟩
  | anyBuf i => exact ⟨f.req, by simp only [runPrim]; split <;> simp_all⟩
  | ends st w => simp [Prim.isEnd] at hp
  | _ => exact ⟨f.req, by simp [runPrim, h]⟩

/-- A `return` or `raise` hands over its status (R262). -/
theorem runPrim_ends (st : Status) (w : Returned) (s : State) :
    runPrim (.ends st w) s = finish ⟨st, w.output s.h⟩ s := rfl

/-! ## `perform`, `runNext`, `runPending`, `settled` -/

@[simp] theorem perform_nil (f : Frame) (s : State) : perform [] f s = plan [] f s := rfl
theorem perform_cons (p : Prim) (ps : List Prim) (f : Frame) (s : State) :
    perform (p :: ps) f s = runPrim p (plan ps f s) := rfl

@[simp] theorem perform_dev (ps : List Prim) (f : Frame) (s : State) :
    (perform ps f s).dev = s.dev := by cases ps <;> simp [perform_cons]
@[simp] theorem perform_wbuf (ps : List Prim) (f : Frame) (s : State) :
    (perform ps f s).wbuf = s.wbuf := by cases ps <;> simp [perform_cons]
@[simp] theorem perform_pfSeen (ps : List Prim) (f : Frame) (s : State) :
    (perform ps f s).pfSeen = s.pfSeen := by cases ps <;> simp [perform_cons]
@[simp] theorem perform_refusalMark (ps : List Prim) (f : Frame) (s : State) :
    (perform ps f s).refusalMark = s.refusalMark := by cases ps <;> simp [perform_cons]
@[simp] theorem perform_sched (ps : List Prim) (f : Frame) (s : State) :
    (perform ps f s).sched = s.sched := by cases ps <;> simp [perform_cons]
@[simp] theorem perform_cfg (ps : List Prim) (f : Frame) (s : State) :
    (perform ps f s).cfg = s.cfg := by cases ps <;> simp [perform_cons]

@[simp] theorem runNext_dev (s : State) : (runNext s).dev = s.dev := by
  unfold runNext; split <;> (try split) <;> simp
@[simp] theorem runNext_wbuf (s : State) : (runNext s).wbuf = s.wbuf := by
  unfold runNext; split <;> (try split) <;> simp
@[simp] theorem runNext_pfSeen (s : State) : (runNext s).pfSeen = s.pfSeen := by
  unfold runNext; split <;> (try split) <;> simp
@[simp] theorem runNext_refusalMark (s : State) : (runNext s).refusalMark = s.refusalMark := by
  unfold runNext; split <;> (try split) <;> simp
@[simp] theorem runNext_sched (s : State) : (runNext s).sched = s.sched := by
  unfold runNext; split <;> (try split) <;> simp
@[simp] theorem runNext_cfg (s : State) : (runNext s).cfg = s.cfg := by
  unfold runNext; split <;> (try split) <;> simp

@[simp] theorem runPending_dev (k : Nat) (s : State) : (runPending k s).dev = s.dev := by
  induction k generalizing s with
  | zero => rfl
  | succ k ih => simp [runPending, ih]
@[simp] theorem runPending_wbuf (k : Nat) (s : State) : (runPending k s).wbuf = s.wbuf := by
  induction k generalizing s with
  | zero => rfl
  | succ k ih => simp [runPending, ih]
@[simp] theorem runPending_pfSeen (k : Nat) (s : State) : (runPending k s).pfSeen = s.pfSeen := by
  induction k generalizing s with
  | zero => rfl
  | succ k ih => simp [runPending, ih]
@[simp] theorem runPending_refusalMark (k : Nat) (s : State) : (runPending k s).refusalMark = s.refusalMark := by
  induction k generalizing s with
  | zero => rfl
  | succ k ih => simp [runPending, ih]
@[simp] theorem runPending_sched (k : Nat) (s : State) : (runPending k s).sched = s.sched := by
  induction k generalizing s with
  | zero => rfl
  | succ k ih => simp [runPending, ih]
@[simp] theorem runPending_cfg (k : Nat) (s : State) : (runPending k s).cfg = s.cfg := by
  induction k generalizing s with
  | zero => rfl
  | succ k ih => simp [runPending, ih]

@[simp] theorem settled_dev (s : State) : (settled s).dev = s.dev := by
  unfold settled; split <;> simp
@[simp] theorem settled_wbuf (s : State) : (settled s).wbuf = s.wbuf := by
  unfold settled; split <;> simp
@[simp] theorem settled_pfSeen (s : State) : (settled s).pfSeen = s.pfSeen := by
  unfold settled; split <;> simp
@[simp] theorem settled_refusalMark (s : State) : (settled s).refusalMark = s.refusalMark := by
  unfold settled; split <;> simp
@[simp] theorem settled_sched (s : State) : (settled s).sched = s.sched := by
  unfold settled; split <;> simp
@[simp] theorem settled_cfg (s : State) : (settled s).cfg = s.cfg := by
  unfold settled; split <;> simp

/-- With nothing pending nothing happens. -/
theorem runNext_settled {s : State} (h : ∀ f, s.seq = .busy f → f.todo = []) : runNext s = s := by
  unfold runNext
  split
  · rename_i f hs; rw [if_pos (h f hs)]
  · rfl

theorem runPending_settled {s : State} (h : ∀ f, s.seq = .busy f → f.todo = []) (k : Nat) :
    runPending k s = s := by
  induction k with
  | zero => rfl
  | succ k ih => rw [runPending, runNext_settled h, ih]

@[simp] theorem settled_idle {s : State} (h : s.seq = .idle) : settled s = s := by
  simp [settled, h]

@[simp] theorem settled_none {s : State} {f : Frame} (h : s.seq = .busy f) (ht : f.todo = []) :
    settled s = s := by simp [settled, h, ht, runPending]

@[simp] theorem settled_finish (r : Result) (s : State) : settled (finish r s) = finish r s :=
  settled_idle rfl

/-- A plan of no updates is the frame itself. -/
@[simp] theorem settled_plan_nil (f : Frame) (s : State) : settled (plan [] f s) = plan [] f s :=
  settled_none (plan_seq _ _ _) rfl

/-- A plan settles to what its first update leads to. -/
theorem settled_plan_cons (p : Prim) (ps : List Prim) (f : Frame) (s : State) :
    settled (plan (p :: ps) f s) = settled (runPrim p (plan ps f s)) := by
  have hs : (plan ps f s).seq = .busy { f with todo := ps } := rfl
  have h1 : settled (plan (p :: ps) f s) = runPending ps.length (runPrim p (plan ps f s)) := by
    simp only [settled, plan_seq, List.length_cons, runPending, runNext]
    simp [perform, plan, State.setFrame]
  rw [h1]
  cases hp : p.isEnd with
  | true =>
    have hi := (runPrim_idle (p := p) hs).2 hp
    rw [settled_idle hi, runPending_settled (fun g hg => by rw [hi] at hg; cases hg)]
  | false =>
    obtain ⟨r, hr⟩ := runPrim_busy (p := p) hs hp
    simp [settled, hr]

/-- The first update of `perform` has happened; the state settles to the same. -/
@[simp] theorem settled_perform (ps : List Prim) (f : Frame) (s : State) :
    settled (perform ps f s) = settled (plan ps f s) := by
  cases ps with
  | nil => rfl
  | cons p ps => rw [settled_plan_cons, perform_cons]

/-- Making the next pending update leaves what the state settles to alone. -/
theorem settled_runNext (s : State) : settled (runNext s) = settled s := by
  unfold runNext
  split
  · rename_i f hs
    split
    · rfl
    · have hf : plan f.todo f s = s := by
        cases s; simp only [plan, State.setFrame] at hs ⊢; subst hs; rfl
      rw [settled_perform, hf]
  · rfl

/-! ## What plans settle to -/

/-- The updates change the buffers, the handle and the result; what is left of the frame has no update
pending and stands where the plan put it, unless the command has ended. -/
theorem settled_frame {s : State} {f : Frame} (h : (settled s).seq = .busy f) : f.todo = [] := by
  have key : ∀ (ps : List Prim) (g : Frame) (u : State), (settled (plan ps g u)).seq = .busy f →
      f.todo = [] := by
    intro ps
    induction ps with
    | nil => intro g u hu; simp at hu; subst hu; rfl
    | cons p ps ih =>
      intro g u hu
      rw [settled_plan_cons] at hu
      have hs : (plan ps g u).seq = .busy { g with todo := ps } := rfl
      cases hp : p.isEnd with
      | true =>
        rw [settled_idle ((runPrim_idle hs).2 hp), (runPrim_idle hs).2 hp] at hu
        cases hu
      | false =>
        obtain ⟨r, hr⟩ := runPrim_busy (p := p) hs hp
        have : runPrim p (plan ps g u) = plan ps { g with req := r } (runPrim p (plan ps g u)) := by
          generalize runPrim p (plan ps g u) = v at hr
          cases v; simp only [plan, State.setFrame] at hr ⊢; subst hr; rfl
        rw [this] at hu
        exact ih _ _ hu
  cases hs : s.seq with
  | idle => rw [settled_idle hs, hs] at h; cases h
  | busy g =>
    have : plan g.todo g s = s := by
      cases s; simp only [plan, State.setFrame] at hs ⊢; subst hs; rfl
    rw [← this] at h
    exact key _ _ _ h

/-! ### One planned update after another

Each lemma moves the first update of a plan into the state it is made in, so that `simp` reads off what a
plan of known updates leads to. -/

@[simp] theorem settled_plan_permAddr (a : MacAddr) (ps : List Prim) (f : Frame) (s : State) :
    settled (plan (.permAddr a :: ps) f s)
      = settled (plan ps f { s with h := { s.h with permAddr := a } }) := settled_plan_cons _ _ _ _
@[simp] theorem settled_plan_curAddr (a : MacAddr) (ps : List Prim) (f : Frame) (s : State) :
    settled (plan (.curAddr a :: ps) f s)
      = settled (plan ps f { s with h := { s.h with curAddr := a } }) := settled_plan_cons _ _ _ _
@[simp] theorem settled_plan_filterType (w : Word) (ps : List Prim) (f : Frame) (s : State) :
    settled (plan (.filterType w :: ps) f s)
      = settled (plan ps f { s with h := { s.h with mcFilterType := w } }) := settled_plan_cons _ _ _ _
@[simp] theorem settled_plan_apiVersion (w : Word) (ps : List Prim) (f : Frame) (s : State) :
    settled (plan (.apiVersion w :: ps) f s)
      = settled (plan ps f { s with h := { s.h with apiVersion := w } }) := settled_plan_cons _ _ _ _
@[simp] theorem settled_plan_rssKey (bs : List Byte) (ps : List Prim) (f : Frame) (s : State) :
    settled (plan (.rssKey bs :: ps) f s)
      = settled (plan ps f { s with h := { s.h with rssKey := bs } }) := settled_plan_cons _ _ _ _
@[simp] theorem settled_plan_linkUp (b : Bool) (ps : List Prim) (f : Frame) (s : State) :
    settled (plan (.linkUp b :: ps) f s)
      = settled (plan ps f { s with h := { s.h with linkUp := b } }) := settled_plan_cons _ _ _ _
@[simp] theorem settled_plan_linkSpeed (sp : Speed) (ps : List Prim) (f : Frame) (s : State) :
    settled (plan (.linkSpeed sp :: ps) f s)
      = settled (plan ps f { s with h := { s.h with linkSpeed := sp } }) := settled_plan_cons _ _ _ _
@[simp] theorem settled_plan_mbxTimeout (w : Word) (ps : List Prim) (f : Frame) (s : State) :
    settled (plan (.mbxTimeout w :: ps) f s)
      = settled (plan ps f { s with h := { s.h with mbxTimeout := w } }) := settled_plan_cons _ _ _ _
@[simp] theorem settled_plan_stopped (b : Bool) (ps : List Prim) (f : Frame) (s : State) :
    settled (plan (.stopped b :: ps) f s)
      = settled (plan ps f { s with h := { s.h with adapterStopped := b } }) := settled_plan_cons _ _ _ _
@[simp] theorem settled_plan_fsm (x : Fsm) (ps : List Prim) (f : Frame) (s : State) :
    settled (plan (.fsm x :: ps) f s)
      = settled (plan ps f { s with h := { s.h with fsm := x } }) := settled_plan_cons _ _ _ _
@[simp] theorem settled_plan_macValid (b : Bool) (ps : List Prim) (f : Frame) (s : State) :
    settled (plan (.macValid b :: ps) f s)
      = settled (plan ps f { s with h := { s.h with macValid := b } }) := settled_plan_cons _ _ _ _
@[simp] theorem settled_plan_reta (k : Nat) (e : BitVec 2) (ps : List Prim) (f : Frame) (s : State) :
    settled (plan (.reta k e :: ps) f s)
      = settled (plan ps f { s with h := { s.h with reta := s.h.reta.set k e } }) :=
  settled_plan_cons _ _ _ _
@[simp] theorem settled_plan_msg (i : Nat) (w : Word) (ps : List Prim) (f : Frame) (s : State) :
    settled (plan (.msg i w :: ps) f s) = settled (plan ps f { s with msg := setWord s.msg i w }) :=
  settled_plan_cons _ _ _ _
@[simp] theorem settled_plan_emit (d : Diag) (ps : List Prim) (f : Frame) (s : State) :
    settled (plan (.emit d :: ps) f s) = settled (plan ps f { s with diag := s.diag ++ [d] }) :=
  settled_plan_cons _ _ _ _
@[simp] theorem settled_plan_hash (v : BitVec 12) (ps : List Prim) (f : Frame) (s : State) :
    settled (plan (.hash v :: ps) f s) = settled (plan ps { f with req := addVector v f.req } s) :=
  settled_plan_cons _ _ _ _
/-- A `return` or `raise` ends the command, whatever is planned behind it (R262). -/
@[simp] theorem settled_plan_ends (st : Status) (w : Returned) (ps : List Prim) (f : Frame)
    (s : State) :
    settled (plan (.ends st w :: ps) f s) = finish ⟨st, w.output s.h⟩ s := by
  rw [settled_plan_cons, runPrim_ends, settled_finish]; rfl
@[simp] theorem settled_plan_returnOk (w : Returned) (ps : List Prim) (f : Frame) (s : State) :
    settled (plan (returnOk w :: ps) f s) = finish ⟨.ok, w.output s.h⟩ s := settled_plan_ends _ _ _ _ _
@[simp] theorem settled_plan_raise (e : ErrorKind) (ps : List Prim) (f : Frame) (s : State) :
    settled (plan (raise e :: ps) f s) = finish ⟨.error e, .none⟩ s := settled_plan_ends _ _ _ _ _

/-- A drawing update does not look at the frame. -/
theorem drawWord_plan (ps : List Prim) (f : Frame) (s : State) :
    drawWord (plan ps f s) = ((drawWord s).1, plan ps f (drawWord s).2) := by
  unfold drawWord
  simp only [plan_tape]
  cases s.tape <;> rfl

/-- One word of a scrambled buffer is a draw (R144). -/
@[simp] theorem settled_plan_anyBuf (i : Nat) (ps : List Prim) (f : Frame) (s : State) :
    settled (plan (.anyBuf i :: ps) f s)
      = settled (plan ps f (storeWord f.cmd i (drawWord s).1 (drawWord s).2)) := by
  rw [settled_plan_cons]
  have h : runPrim (.anyBuf i) (plan ps f s)
      = storeWord f.cmd i (drawWord s).1 (plan ps f (drawWord s).2) := by
    simp only [runPrim, drawWord_plan, plan_seq]
  rw [h]
  unfold storeWord
  split <;> rfl

/-- One scrambled word of `MSG` is a draw (R263). -/
@[simp] theorem settled_plan_anyMsg (i : Nat) (ps : List Prim) (f : Frame) (s : State) :
    settled (plan (.anyMsg i :: ps) f s)
      = settled (plan ps f
          { (drawWord s).2 with msg := setWord (drawWord s).2.msg i (drawWord s).1 }) := by
  rw [settled_plan_cons]
  simp only [runPrim, drawWord_plan]
  rfl

/-- A drawn link speed (R242). -/
@[simp] theorem settled_plan_speedAny (ps : List Prim) (f : Frame) (s : State) :
    settled (plan (.speedAny :: ps) f s)
      = settled (plan ps f
          { (drawSpeed s).2 with h := { s.h with linkSpeed := (drawSpeed s).1 } }) := by
  rw [settled_plan_cons]
  have h : (drawSpeed s).2.h = s.h := by simp
  simp only [runPrim, drawSpeed, drawWord_plan] at h ⊢
  rw [← h]; rfl

/-- The permanent address, or a drawn one, becomes current (R21, R173, R216). -/
@[simp] theorem settled_plan_curFromPerm (ps : List Prim) (f : Frame) (s : State) :
    settled (plan (.curFromPerm :: ps) f s)
      = settled (plan ps f
          { (readPermAddr s).2 with h := { s.h with curAddr := (readPermAddr s).1 } }) := by
  rw [settled_plan_cons]
  have h : (readPermAddr s).2.h = s.h := by simp
  have hp : readPermAddr (plan ps f s) = ((readPermAddr s).1, plan ps f (readPermAddr s).2) := by
    simp only [readPermAddr, plan_h, drawAddr, drawWord_plan]
    split <;> simp_all
  simp only [runPrim, hp]
  rw [← h]; rfl

/-- Writing entry `k` and then all entries behind it. -/
theorem set_take_append {α : Type} (l es : List α) (e : α) (k : Nat) (h : k < l.length) :
    (l.set k e).take (k + 1) ++ es = l.take k ++ e :: es := by
  rw [List.take_add_one, List.take_set_of_le (Nat.le_refl k)]
  simp [h]

/-- The writes of the table from entry `k` on leave the entries in their places (R178). -/
theorem settled_retaWrites (es : List (BitVec 2)) (k : Nat) (f : Frame) (s : State) (ps : List Prim)
    (h : k + es.length = s.h.reta.length) :
    settled (plan (retaWrites k es ++ ps) f s)
      = settled (plan ps f { s with h := { s.h with reta := s.h.reta.take k ++ es } }) := by
  induction es generalizing k s with
  | nil =>
    have : s.h.reta.take k ++ [] = s.h.reta := by
      simp only [List.length_nil, Nat.add_zero] at h
      simp [h]
    rw [this]; rfl
  | cons e es ih =>
    simp only [List.length_cons] at h
    rw [retaWrites, List.cons_append, settled_plan_reta, ih _ _ (by simp; omega)]
    simp only
    rw [set_take_append _ _ _ _ (by omega)]

/-- The hash loop emits its diagnostics and collects its vectors (R176). -/
theorem settled_hashSteps (list : List MacAddr) (ty : Word) (vs : List (BitVec 12)) (f : Frame)
    (s : State) (hf : f.req = some (.setMulticastReq vs)) :
    settled (plan (list.flatMap fun a => diagnose ty ++ [.hash (mtaWindow a ty)]) f s)
      = plan [] { f with req := some (.setMulticastReq (vs ++ list.map fun a => mtaWindow a ty)) }
          { s with diag := s.diag ++ (if filterTypeValid ty then []
              else List.replicate list.length (.badFilterType ty)) } := by
  induction list generalizing vs f s with
  | nil =>
    have : f = { f with req := some (.setMulticastReq vs) } := by rw [← hf]
    simp only [List.flatMap_nil, settled_plan_nil, List.map_nil, List.append_nil, ← this]
    split <;> simp
  | cons a list ih =>
    rw [List.flatMap_cons]
    cases hv : filterTypeValid ty with
    | true =>
      have hd : diagnose ty = [] := by simp [diagnose, hv]
      simp only [hd, List.nil_append, List.singleton_append, settled_plan_hash] at ih ⊢
      rw [ih (vs ++ [mtaWindow a ty]) _ _ (by simp [addVector, hf])]
      simp [hv]
    | false =>
      have hd : diagnose ty = [.emit (.badFilterType ty)] := by simp [diagnose, hv]
      simp only [hd, List.cons_append, List.nil_append, settled_plan_emit, settled_plan_hash] at ih ⊢
      rw [ih (vs ++ [mtaWindow a ty]) _ _ (by simp [addVector, hf])]
      simp [hv, List.replicate_succ]

/-- The update draws one word of a buffer. -/
def Prim.isAny : Prim → Bool
  | .anyBuf _ | .anyMsg _ => true
  | _ => false

/-- Scrambling words of the buffers touches nothing but the buffers and the draws (R144, R263). -/
theorem settled_scramble_other (qs : List Prim) (hq : ∀ p ∈ qs, p.isAny = true) (f : Frame) (s : State)
    (ps : List Prim) :
    ∃ u, settled (plan (qs ++ ps) f s) = settled (plan ps f u) ∧
      u.h = s.h ∧ u.dev = s.dev ∧ u.wbuf = s.wbuf ∧ u.refusalMark = s.refusalMark := by
  induction qs generalizing s with
  | nil => exact ⟨s, rfl, rfl, rfl, rfl, rfl⟩
  | cons q qs ih =>
    have hr := fun p hp => hq p (List.mem_cons_of_mem _ hp)
    have hh := hq q List.mem_cons_self
    cases q with
    | anyBuf i =>
      obtain ⟨u, hu, h1, h2, h3, h4⟩ := ih hr (storeWord f.cmd i (drawWord s).1 (drawWord s).2)
      refine ⟨u, by rw [List.cons_append, settled_plan_anyBuf, hu], ?_, ?_, ?_, ?_⟩
      all_goals simp_all
    | anyMsg i =>
      obtain ⟨u, hu, h1, h2, h3, h4⟩ :=
        ih hr { (drawWord s).2 with msg := setWord (drawWord s).2.msg i (drawWord s).1 }
      refine ⟨u, by rw [List.cons_append, settled_plan_anyMsg, hu], ?_, ?_, ?_, ?_⟩
      all_goals simp_all
    | _ => cases hh

/-- Writing word `i` and then the words behind it is writing all of them. -/
theorem overlay_set (buf ws : List Word) (i : Nat) (w : Word) :
    (buf.set i w).take (i + 1) ++ overlay ws ((buf.set i w).drop (i + 1))
      = buf.take i ++ overlay (w :: ws) (buf.drop i) := by
  induction buf generalizing i with
  | nil => simp [overlay]
  | cons b buf ih =>
    cases i with
    | zero => simp [overlay]
    | succ i => simpa using ih i

/-- Writing no words over a buffer leaves it. -/
theorem overlay_nil_drop (buf : List Word) (i : Nat) :
    buf.take i ++ overlay [] (buf.drop i) = buf := by
  simp only [overlay, List.nil_append, List.length_nil, List.drop_zero, List.take_length,
    List.take_append_drop]

/-- Drawing does not look at `MSG`. -/
theorem drawWords_withMsg (k : Nat) (m : List Word) (s : State) :
    drawWords k { s with msg := m } = ((drawWords k s).1, { (drawWords k s).2 with msg := m }) := by
  have h1 : ∀ s : State,
      drawWord { s with msg := m } = ((drawWord s).1, { (drawWord s).2 with msg := m }) := by
    intro s; unfold drawWord; simp only; cases s.tape <;> rfl
  induction k generalizing s with
  | zero => rfl
  | succ k ih => simp only [drawWords, h1, ih]

/-- Drawing does not look at the Host's buffer. -/
theorem drawWords_withHostBuf (k : Nat) (m : List Word) (s : State) :
    drawWords k { s with hostBuf := m }
      = ((drawWords k s).1, { (drawWords k s).2 with hostBuf := m }) := by
  have h1 : ∀ s : State,
      drawWord { s with hostBuf := m } = ((drawWord s).1, { (drawWord s).2 with hostBuf := m }) := by
    intro s; unfold drawWord; simp only; cases s.tape <;> rfl
  induction k generalizing s with
  | zero => rfl
  | succ k ih => simp only [drawWords, h1, ih]

/-- Scrambling words of `MSG` puts as many draws over it, in order (R36, R263). -/
theorem settled_anyMsgs (n i : Nat) (f : Frame) (s : State) (ps : List Prim) :
    settled (plan ((List.range' i n).map .anyMsg ++ ps) f s)
      = settled (plan ps f { (drawWords n s).2 with
          msg := s.msg.take i ++ overlay (drawWords n s).1 (s.msg.drop i) }) := by
  induction n generalizing i s with
  | zero =>
    simp only [drawWords, overlay_nil_drop]; rfl
  | succ n ih =>
    rw [List.range'_succ, List.map_cons, List.cons_append, settled_plan_anyMsg, ih]
    simp only [drawWords, drawWords_withMsg, drawWord_msg, ← overlay_set]
    rfl

/-- Scrambling words of the buffer of a READ_POSTED command puts as many draws over it, in order (R144). -/
theorem settled_anyBufs_host {f : Frame} {len id : Nat} (hc : f.cmd = .readPosted len id) (n i : Nat)
    (s : State) (ps : List Prim) :
    settled (plan ((List.range' i n).map .anyBuf ++ ps) f s)
      = settled (plan ps f { (drawWords n s).2 with
          hostBuf := s.hostBuf.take i ++ overlay (drawWords n s).1 (s.hostBuf.drop i) }) := by
  induction n generalizing i s with
  | zero =>
    simp only [drawWords, overlay_nil_drop]; rfl
  | succ n ih =>
    rw [List.range'_succ, List.map_cons, List.cons_append, settled_plan_anyBuf, hc]
    simp only [storeWord]
    rw [ih]
    simp only [drawWords, drawWords_withHostBuf, drawWord_hostBuf, ← overlay_set]
    rfl

/-- Scrambling words of the buffer of another command is scrambling words of `MSG` (R144). -/
theorem settled_anyBufs_msg {f : Frame} (hc : ∀ len id, f.cmd ≠ .readPosted len id) (is : List Nat)
    (s : State) (ps : List Prim) :
    settled (plan (is.map .anyBuf ++ ps) f s) = settled (plan (is.map .anyMsg ++ ps) f s) := by
  induction is generalizing s with
  | nil => rfl
  | cons i is ih =>
    rw [List.map_cons, List.map_cons, List.cons_append, List.cons_append, settled_plan_anyBuf,
      settled_plan_anyMsg, ih]
    congr 2
    unfold storeWord
    split
    · rename_i len id h; exact absurd h (hc len id)
    · rfl

/-- The writes of `MSG` put the words over the buffer from word `i` on (R36). -/
theorem settled_writesFrom (ws : List Word) (i : Nat) (f : Frame) (s : State) (rest : List Prim) :
    settled (plan (writesFrom i ws ++ rest) f s)
      = settled (plan rest f { s with msg := s.msg.take i ++ overlay ws (s.msg.drop i) }) := by
  induction ws generalizing i s with
  | nil =>
    rw [overlay_nil_drop]; rfl
  | cons w ws ih =>
    rw [writesFrom, List.cons_append, settled_plan_cons]
    have hp : runPrim (.msg i w) (plan (writesFrom (i + 1) ws ++ rest) f s)
        = plan (writesFrom (i + 1) ws ++ rest) f { s with msg := setWord s.msg i w } := rfl
    rw [hp, ih, ← overlay_set]
    rfl

/-- The steps that build a request put its words over the front of `MSG` (R36, R102). -/
theorem settled_msgWrites (r : Instr) (ws : List Word) (f : Frame) (s : State) :
    settled (plan (msgWrites r ws) f s) = plan [] f { s with msg := overlay ws s.msg } := by
  have hAll : settled (plan (writesFrom 0 ws) f s) = plan [] f { s with msg := overlay ws s.msg } := by
    have h := settled_writesFrom ws 0 f s []
    simp only [List.append_nil, List.take_zero, List.nil_append, List.drop_zero] at h
    rw [h, settled_plan_nil]
  unfold msgWrites
  split
  · cases ws with
    | nil => simpa [writesFrom] using hAll
    | cons w ws =>
      have h := settled_writesFrom ws 1 f s (writesFrom 0 [w])
      simp only [List.drop_succ_cons, List.drop_zero, List.take_succ_cons, List.take_zero]
      rw [h, show writesFrom 0 [w] = writesFrom 0 [w] ++ [] from rfl, settled_writesFrom]
      simp only [List.take_zero, List.nil_append, List.drop_zero, settled_plan_nil]
      congr 2
      cases s.msg <;> simp [overlay]
  · exact hAll

end Sys2Proof.Machine
end

