-- ==== Sys2Proof/Laws/Commands.lean ====
section
/-!
SUPPORT. How a command is read in each state of the sequencer, and which pseudocode runs at a point: the
lemmas by which a statement about `exec` comes down to a statement about one step of a command.
-/

namespace Sys2Proof.Machine

open Sys2Proof

/-- At a point of a command that runs, its body runs (R35). -/
theorem command_at {s : State} {f : Frame} {i : Instr} {p : Point} (h : At s f i p)
    (offer : State → State) (body : Frame → State → Outcome) : command i offer body s = body f s :=
  command_running h.1 h.2.1 h.2.2.2

/-- A running command with an update pending makes that update, whichever command it is (R35). -/
theorem exec_pending {s : State} {f : Frame} (hs : s.seq = .busy f) (ht : f.todo ≠ [])
    (hg : f.cmd.group = .command) : exec f.cmd s = .next (runNext s) := by
  cases hc : f.cmd <;> simp [hc, Instr.group] at hg <;>
    simp only [exec, execStop, execReset, execStart, execInit, execSetMac, execSetVlan, execMtaVector,
      execUpdateMc, execSetMacvlan, execGetReta, execGetRssKey, execNegotiateApi, execCheckLink,
      execWritePosted, execReadPosted, execCheckForRst, execReadHandle, execExchange] <;>
    exact command_pending hs hc ht

/-- Away from its decoder an operation runs the transport (R146). -/
theorem operation_transport {f : Frame} (hp : f.point ≠ .decode)
    (g : Frame → List Word → State → State) (s : State) : operation g f s = transportStep f s := by
  unfold operation
  split
  · contradiction
  · rfl

/-- At its decoder an operation interprets `MSG` (R146). -/
theorem operation_decode {f : Frame} (hp : f.point = .decode)
    (g : Frame → List Word → State → State) (s : State) : operation g f s = .next (g f s.msg s) := by
  simp [operation, hp]

/-- At a point of WRITE_POSTED or READ_POSTED every command that uses the transport runs the transport's
pseudocode. -/
theorem exec_transport {s : State} {f : Frame} {c : Instr} {p : Point} (hc : usesTransport c = true)
    (h : At s f c p) (hp : isPostPoint p = true ∨ isReadPoint p = true) :
    exec c s = transportStep f s := by
  obtain ⟨hs, rfl, rfl, ht⟩ := h
  have hd : f.point ≠ .decode := by rintro h; simp [h, isPostPoint, isReadPoint] at hp
  have hh : f.point ≠ .hash := by rintro h; simp [h, isPostPoint, isReadPoint] at hp
  have key : ∀ g, operation g f s = transportStep f s := fun g => operation_transport hd g s
  cases hcmd : f.cmd <;> simp [hcmd, usesTransport, isOperation, isTransport] at hc <;>
    simp [exec, command, hs, hcmd, ht, execReset, execSetMac, execSetVlan, execUpdateMc, execSetMacvlan,
      execGetReta, execGetRssKey, execNegotiateApi, execWritePosted, execReadPosted, execExchange, key]
  · unfold resetStep; split <;> simp_all [isPostPoint, isReadPoint]
  · unfold updateMcStep; split <;> simp_all

/-- The writes that build a request lead to the request standing in `MSG` (R36, R102). -/
theorem stageRequest_settled (r : Instr) {f : Frame} (hf : f.todo = []) (s : State) :
    settled (stageRequest r f s) = staged s f (encode s.cfg.codes r) := by
  unfold stageRequest
  rw [settled_perform, settled_msgWrites]
  simp [plan, State.setFrame, staged, overlay, hf]

/-- A request row at its encode point writes the first of its words and leads to the request standing in
`MSG`; the eight rows differ in nothing else (R102). -/
theorem requestStep_at {s : State} {f : Frame} {r : Instr} (hs : s.seq = .busy f)
    (ht : f.todo = []) (hp : f.point = .encode) (hr : f.req = some r) :
    ∃ t, requestStep r s = .next t ∧ settled t = staged s f (encode s.cfg.codes r) := by
  refine ⟨_, ?_, stageRequest_settled r ht s⟩
  simp only [requestStep, hs]
  rw [if_pos ⟨ht, hp, hr⟩]

/-- Away from that point a request row is refused (R126). -/
theorem requestStep_elsewhere {s : State} {r : Instr}
    (h : ∀ f, s.seq = .busy f → f.point = .encode → f.req ≠ some r) :
    requestStep r s = .next (refuse s) := by
  unfold requestStep
  split
  · rfl
  · rename_i f hs
    rw [if_neg fun hp => h f hs hp.2.1 hp.2.2]

/-- A reply row at a decode point is interpreted by the command that runs (R124, R182). -/
theorem replyStep_at {s : State} {f : Frame} {c : Instr} (h : At s f c .decode) (r : Instr) :
    replyStep r s = interpretReply f (replyBuffer s.cfg.codes r s.msg) s := by
  simp [replyStep, h.1, h.2.2.1, h.2.2.2]

end Sys2Proof.Machine
end

