-- ==== Sys2Proof/Laws/Device.lean ====
section
/-!
SUPPORT. What every operation on the device keeps: the canonical form of the mailbox memory, the number of
queue pairs, and "never both 1" of the two lock bits (R70).
-/

namespace Sys2Proof.Machine

open Sys2Proof

/-- The device is one the machine can hold: canonical memory, and `VFU` and `PFU` never both 1 (R70). -/
def Device.ok (d : Device) : Prop :=
  Memory.wf d.mbmem = true ∧ ¬ (d.vfu = true ∧ d.pfu = true)

@[simp] theorem fillMbmem_vfu (win : Config.Window) (ws : List Word) (i : Nat) (d : Device) :
    (fillMbmem win i ws d).vfu = d.vfu := by
  induction ws generalizing i d with
  | nil => rfl
  | cons w ws ih => simp [fillMbmem, ih, Device.setMbmemWord]

@[simp] theorem fillMbmem_queues (win : Config.Window) (ws : List Word) (i : Nat) (d : Device) :
    (fillMbmem win i ws d).queues = d.queues := by
  induction ws generalizing i d with
  | nil => rfl
  | cons w ws ih => simp [fillMbmem, ih, Device.setMbmemWord]

/-- `Dev` writes of one word of `MBMEM` keep the device legal. -/
theorem Device.ok_setMbmemWord (win : Config.Window) {d : Device} (h : d.ok) (i : Nat) (x : Word) :
    (d.setMbmemWord win i x).ok := ⟨Memory.wf_writeWord h.1 _ _, h.2⟩

/-- A write of `MBX` keeps the device legal: the VF takes the lock only while the PF does not hold it
(R71). -/
theorem Device.ok_applyMbx (win : Config.Window) {d : Device} (h : d.ok) (w : Word) :
    (applyMbx win w d).ok := by
  refine ⟨h.1, ?_⟩
  simp only [applyMbx]
  rintro ⟨hv, hp⟩
  simp [hp] at hv

/-- The function-level reset keeps the device legal (R82). -/
theorem functionLevelReset_ok {s : State} (h : s.dev.ok) : (functionLevelReset s).dev.ok := by
  simp only [functionLevelReset, State.modDev_dev, drawWords_dev]
  refine ⟨wf_fillMbmem _ _ _ _ h.1, ?_⟩
  simp [resetRegs]

/-- What a register write does at the device keeps it legal. -/
theorem writeReg_ok {s : State} (h : s.dev.ok) (r : Reg) (v : Word) : (writeReg r v s).dev.ok := by
  unfold writeReg
  split
  · split
    · exact functionLevelReset_ok h
    · exact h
  · exact h
  · exact h
  · exact h
  · exact Device.ok_setMbmemWord _ h _ _
  · exact Device.ok_applyMbx _ h _
  · exact h
  · exact h

/-- A register write changes no queue pair's existence. -/
@[simp] theorem writeReg_queues_length (r : Reg) (v : Word) (s : State) :
    (writeReg r v s).dev.queues.length = s.dev.queues.length := by
  unfold writeReg
  split <;> (try split) <;>
    simp [functionLevelReset, resetRegs, applyMbx, Device.setMbmemWord, setRxdctl, setTxdctl]

theorem applyWrite_ok {s : State} (h : s.dev.ok) (e : Nat × Word) : (applyWrite e s).dev.ok := by
  unfold applyWrite
  split
  · exact h
  · split
    · exact h
    · exact writeReg_ok h _ _

@[simp] theorem applyWrite_queues_length (e : Nat × Word) (s : State) :
    (applyWrite e s).dev.queues.length = s.dev.queues.length := by
  unfold applyWrite; split <;> (try split) <;> simp

theorem applyAll_ok {s : State} (h : s.dev.ok) (es : List (Nat × Word)) : (applyAll es s).dev.ok := by
  induction es generalizing s with
  | nil => exact h
  | cons e es ih => exact ih (applyWrite_ok h e)

@[simp] theorem applyAll_queues_length (es : List (Nat × Word)) (s : State) :
    (applyAll es s).dev.queues.length = s.dev.queues.length := by
  induction es generalizing s with
  | nil => rfl
  | cons e es ih => simp [applyAll, ih]

/-- Draining every posted write keeps the device legal (R64). -/
theorem drainAll_ok {s : State} (h : s.dev.ok) : (drainAll s).dev.ok :=
  applyAll_ok (s := { s with wbuf := [] }) h _

@[simp] theorem drainAll_queues_length (s : State) :
    (drainAll s).dev.queues.length = s.dev.queues.length := by simp [drainAll]

/-- `Dev-drain` keeps the device legal (R79). -/
theorem drainOne_ok {s : State} (h : s.dev.ok) : (drainOne s).dev.ok := by
  unfold drainOne
  split
  · exact h
  · rename_i e rest _
    exact applyWrite_ok (s := { s with wbuf := rest }) h e

@[simp] theorem drainOne_queues_length (s : State) :
    (drainOne s).dev.queues.length = s.dev.queues.length := by
  unfold drainOne; split <;> simp

/-- `RegRead` keeps the device legal: the posted writes are applied, the sample changes nothing (R61). -/
theorem regRead_ok {s : State} (h : s.dev.ok) (r : Reg) : (regRead r s).2.dev.ok := by
  unfold regRead
  split
  · exact h
  · simpa using drainAll_ok h

@[simp] theorem regRead_queues_length (r : Reg) (s : State) :
    (regRead r s).2.dev.queues.length = s.dev.queues.length := by
  unfold regRead; split <;> simp

@[simp] theorem regRead_dev_removed (r : Reg) (s : State) :
    (regRead r s).2.dev.removed = s.dev.removed := by
  unfold regRead; split <;> simp

/-- `Flush` keeps the device legal (R63). -/
theorem flush_ok {s : State} (h : s.dev.ok) : (flush s).dev.ok := regRead_ok h _

@[simp] theorem flush_queues_length (s : State) :
    (flush s).dev.queues.length = s.dev.queues.length := regRead_queues_length _ _

@[simp] theorem flush_dev_removed (s : State) : (flush s).dev.removed = s.dev.removed :=
  regRead_dev_removed _ _

/-- A step of the PF keeps the device legal: it takes the lock only while the VF does not hold it
(R80). -/
theorem pfMove_ok {s : State} (h : s.dev.ok) (p : PfStep) : (pfMove p s).dev.ok := by
  unfold pfMove
  split
  · rename_i he
    cases p with
    | lock => exact ⟨h.1, by simp only [pfEnabled] at he; simp_all [pfApply]⟩
    | write i x => exact Device.ok_setMbmemWord _ h _ _
    | post => exact ⟨h.1, by simp [pfApply]⟩
    | unlock => exact ⟨h.1, by simp [pfApply]⟩
    | take => exact h
    | takeAck => exact h
    | rst b => exact h
    | link x => exact h
  · exact h

/-- A step of the device environment keeps the device legal (R79). -/
theorem devMove_ok {s : State} (h : s.dev.ok) (d : DevStep) : (devMove d s).dev.ok := by
  cases d with
  | drain => exact drainOne_ok h
  | remove => exact h

end Sys2Proof.Machine
end

