-- ==== Sys2Proof/Laws/Params.lean ====
section
/-!
SUPPORT. The spec's defaults meet the spec's constraints, and the registers of a window that meets them
stand at offsets of their own.
-/

namespace Sys2Proof

open Sys2Proof.Machine

theorem Config.defaultCodes_ok : Config.defaultCodes.Ok where
  opcodesNodup := by decide
  opcodesFit := by
    intro op h
    simp only [Config.Codes.opcodes, Config.defaultCodes, List.mem_cons, List.not_mem_nil, or_false] at h
    rcases h with rfl | rfl | rfl | rfl | rfl | rfl | rfl | rfl <;> rfl
  opcodeLow := by decide
  infoFits := by decide
  flagsHigh := by decide
  flagsInside := by decide
  ackNackCts := by decide
  successFailureCts := by decide
  infoWide := by decide

theorem Config.defaultWindow_ok : Config.defaultWindow.Ok 16 8 where
  rxdctlLength := by decide
  txdctlLength := by decide
  offsetsNodup := by decide
  offsetsAligned := by decide
  bitsInside := by decide
  mbxBitsNodup := by decide
  speedInside := by decide
  upOutsideSpeed := by decide
  speedCodesNodup := by decide

/-- The spec's defaults meet its constraints (R8 to R11, R241). -/
theorem Config.defaults_ok : Config.defaults.Ok where
  codes := Config.defaultCodes_ok
  window := Config.defaultWindow_ok
  mbxSize := by decide
  apiBase := by decide
  mbxInitTimeout := by decide

namespace Machine

theorem map_getD_range (l : List Nat) : (List.range l.length).map (fun q => l.getD q 0) = l := by
  apply List.ext_getElem
  · simp
  · intro i h1 h2; simp at h1; simp [h1]

/-- The offsets of the registers are among the offsets of the window, in order. -/
theorem allRegs_offsets {p : Config.Params} (h : p.Ok) :
    ((allRegs p).map (Reg.offset p)).Sublist (p.window.offsets p.mbxSize) := by
  have hr : (List.range p.numQueues).map (fun q => p.window.offRxdctl.getD q 0) = p.window.offRxdctl := by
    rw [← h.window.rxdctlLength]; exact map_getD_range _
  have ht : (List.range p.numQueues).map (fun q => p.window.offTxdctl.getD q 0) = p.window.offTxdctl := by
    rw [← h.window.txdctlLength]; exact map_getD_range _
  have : (allRegs p).map (Reg.offset p)
      = [p.window.offCtrl, p.window.offStatus, p.window.offLinks, p.window.offIntMask, p.window.offMbx]
        ++ (List.range p.mbxSize).map (fun i => p.window.offMbmem + 4 * i)
        ++ p.window.offRxdctl ++ p.window.offTxdctl := by
    simp only [allRegs, List.map_append, List.map_map, List.map_cons, List.map_nil]
    conv => rhs; rw [← hr, ← ht]
    rfl
  rw [this]
  refine List.Sublist.append (List.Sublist.append (List.Sublist.append ?_ (List.Sublist.refl _))
    (List.Sublist.refl _)) (List.Sublist.refl _)
  exact .cons_cons _ (.cons_cons _ (.cons_cons _ (.cons _ (List.Sublist.refl _))))

/-- No two registers stand at one offset (R11). -/
theorem offset_injective {p : Config.Params} (h : p.Ok) {r q : Reg} (hr : r ∈ allRegs p)
    (hq : q ∈ allRegs p) (he : r.offset p = q.offset p) : r = q :=
  List.inj_on_of_nodup_map (h.window.offsetsNodup.sublist (allRegs_offsets h)) hr hq he

/-- The register at a register's offset is that register (R68). -/
theorem regAt_offset {p : Config.Params} (h : p.Ok) {r : Reg} (hr : r ∈ allRegs p) :
    regAt p (r.offset p) = some r := by
  unfold regAt
  cases hf : (allRegs p).find? fun q => decide (q.offset p = r.offset p) with
  | none => have := List.find?_eq_none.1 hf r hr; simp at this
  | some q =>
    have h1 := List.mem_of_find?_eq_some hf
    have h2 := List.find?_some hf
    rw [offset_injective h h1 hr (by simpa using h2)]

/-- An offset of no register names none (R47, R79). -/
theorem regAt_none {p : Config.Params} {off : Nat} (h : ∀ r ∈ allRegs p, r.offset p ≠ off) :
    regAt p off = none := by
  simpa [regAt, List.find?_eq_none] using h

end Machine

end Sys2Proof
end

