-- ==== Sys2Proof/Laws/Transport.lean ====
section
/-!
SUPPORT. What each shared operation of the transport can do, said once: a sample, the steps of a failed
contract, the tests of a poll.
-/

namespace Sys2Proof.Machine

open Sys2Proof

/-! ## `readTo`: a sampled register (R61) -/

@[simp] theorem readTo_seq (f : Frame) (r : Reg) (p : Point) (s : State) :
    (readTo f r p s).seq = .busy { f with v := (regRead r s).1, point := p } := rfl
@[simp] theorem readTo_msg (f : Frame) (r : Reg) (p : Point) (s : State) :
    (readTo f r p s).msg = s.msg := by simp [readTo]
@[simp] theorem readTo_hostBuf (f : Frame) (r : Reg) (p : Point) (s : State) :
    (readTo f r p s).hostBuf = s.hostBuf := by simp [readTo]
@[simp] theorem readTo_result (f : Frame) (r : Reg) (p : Point) (s : State) :
    (readTo f r p s).result = s.result := by simp [readTo]
@[simp] theorem readTo_dev (f : Frame) (r : Reg) (p : Point) (s : State) :
    (readTo f r p s).dev = (regRead r s).2.dev := rfl
@[simp] theorem readTo_refusalMark (f : Frame) (r : Reg) (p : Point) (s : State) :
    (readTo f r p s).refusalMark = s.refusalMark := by simp [readTo]
@[simp] theorem readTo_cfg (f : Frame) (r : Reg) (p : Point) (s : State) :
    (readTo f r p s).cfg = s.cfg := by simp [readTo]

/-- A sample writes no handle register but `H.removed` (R61). -/
theorem readTo_h (f : Frame) (r : Reg) (p : Point) (s : State) :
    (readTo f r p s).h = { s.h with removed := (readTo f r p s).h.removed } := regRead_h r s

/-! ## A contract that fails (R144, R172, R214) -/

/-- A failed READ_POSTED scrambles words of its buffer, and of `MSG` where that is another one: each step
is one its command may make, and a draw (R144, R263). -/
theorem scramble_isAny {f : Frame} {p : Prim} (hp : p ∈ scrambleBuffer f ++ scrambleMsg f) :
    p.isAny = true ∧ p.isEnd = false ∧ (usesTransport f.cmd = true → primOk f.cmd p = true) := by
  rcases List.mem_append.1 hp with hp | hp
  · obtain ⟨i, _, rfl⟩ := List.mem_map.1 hp
    exact ⟨rfl, rfl, id⟩
  · unfold scrambleMsg at hp
    split at hp
    · rename_i n d hc
      obtain ⟨i, _, rfl⟩ := List.mem_map.1 hp
      exact ⟨rfl, rfl, fun _ => by rw [hc]; rfl⟩
    · cases hp

/-- What a failed contract plans ends with its error, and nothing before that ends the command. -/
theorem raiseSteps_last (f : Frame) (use : Use) (e : ErrorKind) :
    ∃ ps, raiseSteps f use e = ps ++ [raise e] ∧ ∀ p ∈ ps, p.isEnd = false := by
  have hc : ∀ p ∈ transportCleanUp f, p.isEnd = false := by
    unfold transportCleanUp; split <;> simp [Prim.isEnd]
  cases use with
  | post => exact ⟨transportCleanUp f, rfl, hc⟩
  | read =>
    refine ⟨scrambleBuffer f ++ scrambleMsg f ++ transportCleanUp f, rfl, fun p hp => ?_⟩
    rcases List.mem_append.1 hp with hp | hp
    · exact (scramble_isAny hp).2.1
    · exact hc p hp

/-- Every command that uses the transport may return its three errors (R265). -/
theorem transport_statusAllowed {c : Instr} (hc : usesTransport c = true) {e : ErrorKind}
    (he : e ∈ transportErrors) : statusAllowed c (.error e) = true := by
  suffices e ∈ errorsOf c by simpa [statusAllowed] using this
  cases c <;> first | exact he | exact List.mem_append_right _ he | cases hc

/-- The clean-up steps of RESET are RESET's. -/
theorem transportCleanUp_ok {f : Frame} {p : Prim} (hp : p ∈ transportCleanUp f) :
    primOk f.cmd p = true := by
  unfold transportCleanUp at hp
  split at hp
  · rename_i hc
    rw [hc]
    rcases List.mem_cons.1 hp with rfl | hp
    · rfl
    · rw [List.mem_singleton.1 hp]; rfl
  · cases hp

/-- The steps of a failed contract are ones its command may make. -/
theorem raiseSteps_ok {f : Frame} (hc : usesTransport f.cmd = true) (use : Use) {e : ErrorKind}
    (he : e ∈ transportErrors) {p : Prim} (hp : p ∈ raiseSteps f use e) : primOk f.cmd p = true := by
  have hr : primOk f.cmd (raise e) = true := transport_statusAllowed hc he
  cases use with
  | post =>
    rcases List.mem_append.1 hp with hp | hp
    · exact transportCleanUp_ok hp
    · rw [List.mem_singleton.1 hp]; exact hr
  | read =>
    rcases List.mem_append.1 hp with hp | hp
    · rcases List.mem_append.1 hp with hp | hp
      · exact (scramble_isAny hp).2.2 hc
      · exact transportCleanUp_ok hp
    · rw [List.mem_singleton.1 hp]; exact hr

/-- The handle a failed contract leaves: RESET invalidates the address and is `Ready`, every other command
writes no handle register (R172, R214). -/
def failedHandle (c : Instr) (h : Handle) : Handle :=
  if c = .reset then { h with macValid := false, fsm := .ready } else h

theorem settled_transportCleanUp (f : Frame) (e : ErrorKind) (s : State) :
    settled (plan (transportCleanUp f ++ [raise e]) f s)
      = finish ⟨.error e, .none⟩ { s with h := failedHandle f.cmd s.h } := by
  unfold transportCleanUp failedHandle
  split <;> simp

/-- What a failed contract leads to: the command has ended with its error, and beside the buffers
only the handle of a RESET has changed (R144, R172, R214, R262). -/
theorem settled_transportRaise (f : Frame) (use : Use) (e : ErrorKind) (s : State) :
    (settled (transportRaise f use e s)).seq = .idle ∧
    (settled (transportRaise f use e s)).result = some ⟨.error e, .none⟩ ∧
    (settled (transportRaise f use e s)).h = failedHandle f.cmd s.h ∧
    (settled (transportRaise f use e s)).dev = s.dev ∧
    (settled (transportRaise f use e s)).wbuf = s.wbuf ∧
    (settled (transportRaise f use e s)).refusalMark = s.refusalMark := by
  cases use with
  | post =>
    simp only [transportRaise, raiseSteps, settled_transportCleanUp]
    exact ⟨rfl, rfl, rfl, rfl, rfl, rfl⟩
  | read =>
    simp only [transportRaise, raiseSteps]
    rw [List.append_assoc]
    obtain ⟨u, hu, h1, h2, h3, h4⟩ := settled_scramble_other (scrambleBuffer f ++ scrambleMsg f)
      (fun p hp => (scramble_isAny hp).1) f s (transportCleanUp f ++ [raise e])
    rw [hu, settled_transportCleanUp]
    exact ⟨rfl, rfl, by rw [← h1]; rfl, h2, h3, h4⟩

/-- What a raw READ_POSTED that fails leads to: its first `len` draws stand over the Host's buffer, the next
`len` over `MSG`, and the command has ended with its error (R36, R144, R263). -/
theorem settled_rawReadRaise {f : Frame} {len id : Nat} (hc : f.cmd = .readPosted len id) (e : ErrorKind)
    (s : State) :
    let d := drawWords f.rspLen s
    let m := drawWords f.rspLen d.2
    settled (transportRaise f .read e s) = finish ⟨.error e, .none⟩
      { m.2 with hostBuf := overlay d.1 s.hostBuf, msg := overlay m.1 s.msg } := by
  simp only [transportRaise, raiseSteps, scrambleBuffer, scrambleMsg, hc, List.range_eq_range',
    List.append_assoc]
  rw [settled_anyBufs_host hc, settled_anyMsgs, settled_transportCleanUp, drawWords_withHostBuf]
  simp only [failedHandle, hc, reduceCtorEq, if_false, List.take_zero,
    List.nil_append, List.drop_zero, drawWords_msg]

/-- What a failed READ_POSTED of any other command leads to: its `len` draws stand over `MSG`, a RESET is
`Ready` without a valid address, and the command has ended with its error (R36, R144, R146, R214). -/
theorem settled_readRaise {f : Frame} (hc : ∀ len id, f.cmd ≠ .readPosted len id) (e : ErrorKind)
    (s : State) :
    let d := drawWords f.rspLen s
    settled (transportRaise f .read e s) = finish ⟨.error e, .none⟩
      { d.2 with msg := overlay d.1 s.msg, h := failedHandle f.cmd s.h } := by
  have hm : scrambleMsg f = [] := by
    unfold scrambleMsg
    split
    · rename_i len id h; exact absurd h (hc len id)
    · rfl
  simp only [transportRaise, raiseSteps, scrambleBuffer, hm, List.append_nil, List.append_assoc]
  rw [settled_anyBufs_msg hc, List.range_eq_range', settled_anyMsgs, settled_transportCleanUp]
  simp only [List.take_zero, List.nil_append, List.drop_zero, drawWords_h]

/-! ## The tests of a poll (R141, R142, R261) -/

/-- What the tests of a sample can do: fail with one of the three transport errors, go on with the awaited
bit, or count one iteration and wait. -/
theorem pollTests_cases (f : Frame) (use : Use) (awaited : Bool) (onSuccess : State → State)
    (again : Point) (s : State) :
    (∃ e ∈ transportErrors, pollTests f use awaited onSuccess again s = transportRaise f use e s) ∨
    (s.h.removed = false ∧ showsReset s.cfg.window f.v = false ∧ awaited = true ∧
      pollTests f use awaited onSuccess again s = onSuccess s) ∨
    (f.n = none ∧ pollTests f use awaited onSuccess again s = s.goto f again) ∨
    (∃ k, f.n = some (k + 2) ∧ pollTests f use awaited onSuccess again s
      = s.setFrame { f with n := some (k + 1), point := again }) := by
  unfold pollTests
  split
  · exact .inl ⟨.deviceRemoved, by simp [transportErrors], rfl⟩
  · rename_i hr
    split
    · exact .inl ⟨.resetInProgress, by simp [transportErrors], rfl⟩
    · rename_i hv
      split
      · rename_i ha
        exact .inr (.inl ⟨by simpa using hr, by simpa using hv, ha, rfl⟩)
      · unfold countDown
        split
        · rename_i hn
          exact .inr (.inr (.inl ⟨hn, rfl⟩))
        · rename_i k hn
          split
          · exact .inl ⟨.transportTimeout, by simp [transportErrors], rfl⟩
          · rename_i hk
            refine .inr (.inr (.inr ⟨k - 2, ?_, ?_⟩))
            · rw [hn]; congr 1; omega
            · have : k - 1 = k - 2 + 1 := by omega
              rw [this]

end Sys2Proof.Machine
end

