-- ==== Sys2Proof/Tests/Slice0.lean ====
section
/-!
SUPPORT. The model's own tests: ill-formed terms that WellFormed refuses, the words of every message row
written out from 30_encoding.md, one-step vectors of 95_test_vectors.md, and for every statement with
hypotheses a concrete state and operands that meet them.
-/

namespace Sys2Proof.Tests

open Sys2Proof Sys2Proof.Machine

/-- The default protocol constants. -/
abbrev codes : Config.Codes := Config.defaultCodes
/-- The default register window. -/
abbrev window : Config.Window := Config.defaultWindow
/-- The handle after construction. -/
abbrev handle0 : Handle := Handle.constructed Config.defaults
/-- The device at power-on. -/
abbrev device0 : Device := Device.powerOn Config.defaults

/-! ## WellFormed: one ill-formed term for each check -/

theorem test_wf_vectors_31 : (Instr.setMulticastReq (List.replicate 31 1#12)).wellFormed Config.defaults = false := by
  decide
theorem test_wf_vectors_30 : (Instr.setMulticastReq (List.replicate 30 1#12)).wellFormed Config.defaults = true := by
  decide
theorem test_wf_clear_list_address :
    (Instr.setMacvlanReq 0#32 ⟨1#8, 0#8, 0#8, 0#8, 0#8, 0#8⟩).wellFormed Config.defaults = false := by decide
theorem test_wf_index_256 : (Instr.setMacvlan 256#32 MacAddr.zero).wellFormed Config.defaults = false ∧
    (Instr.setMacvlan 255#32 MacAddr.zero).wellFormed Config.defaults = true := by decide
theorem test_wf_request_index_256 :
    (Instr.setMacvlanReq 256#32 MacAddr.zero).wellFormed Config.defaults = false := by decide
theorem test_wf_reply_index_256 : (Instr.setMacvlanAck true 256#32).wellFormed Config.defaults = false ∧
    (Instr.setMacvlanNack true 256#32).wellFormed Config.defaults = false := by decide
theorem test_wf_reta_payload : (Instr.getRetaSuccess false [0#32]).wellFormed Config.defaults = false := by decide
theorem test_wf_key_payload : (Instr.getRssKeySuccess false [0#32]).wellFormed Config.defaults = false := by decide
theorem test_wf_post_len_0 : (Instr.writePosted [] 0 0).wellFormed Config.defaults = false := by decide
theorem test_wf_post_len_17 :
    (Instr.writePosted (List.replicate 17 0#32) 17 0).wellFormed Config.defaults = false := by decide
theorem test_wf_post_message_length : (Instr.writePosted [0#32] 2 0).wellFormed Config.defaults = false := by decide
theorem test_wf_post_mailbox : (Instr.writePosted [0#32] 1 1).wellFormed Config.defaults = false := by decide
theorem test_wf_read_len_0 : (Instr.readPosted 0 0).wellFormed Config.defaults = false := by decide
theorem test_wf_read_len_17 : (Instr.readPosted 17 0).wellFormed Config.defaults = false := by decide
theorem test_wf_read_mailbox : (Instr.readPosted 1 1).wellFormed Config.defaults = false := by decide
theorem test_wf_rst_mailbox : (Instr.checkForRst 2).wellFormed Config.defaults = false := by decide
theorem test_wf_exchange_request : (Instr.exchange 0 1).wellFormed Config.defaults = false := by decide
theorem test_wf_exchange_reply : (Instr.exchange 1 17).wellFormed Config.defaults = false := by decide

/-! ## The parameters -/

/-- Other protocol constants, within R9: FLAG_SUCCESS and FLAG_FAILURE are bits of their own, the info
field has six bits. -/
def otherCodes : Config.Codes :=
  { codes with
    opReset := 0x21#32, opcodeMask := 0xFF#32, infoShift := 10, infoWidth := 6
    flagMask := 0xFFFF0000#32, ctsBit := 16, successBit := 20, failureBit := 21 }

theorem otherCodes_ok : otherCodes.Ok where
  opcodesNodup := by decide
  opcodesFit := by
    intro op h
    simp only [Config.Codes.opcodes, otherCodes, codes, Config.defaultCodes, List.mem_cons,
      List.not_mem_nil, or_false] at h
    rcases h with rfl | rfl | rfl | rfl | rfl | rfl | rfl | rfl <;> rfl
  opcodeLow := by decide
  infoFits := by decide
  flagsHigh := by decide
  flagsInside := by decide
  ackNackCts := by decide
  successFailureCts := by decide
  infoWide := by decide

/-- The rows of the opcode table, as spec/opcode_table.json writes them: "match" and "mask". -/
theorem test_table_rows :
    (tableRows codes).map (fun r => (r.pattern, r.mask)) =
      [ (0x00000001#32, 0xFFFFFFFF#32), (0x00000002#32, 0xFFFFFFFF#32),
        (0x00000004#32, 0xFFFEFFFF#32), (0x00000003#32, 0xFFE0FFFF#32),
        (0x00000006#32, 0xFF00FFFF#32), (0x00000008#32, 0xFFFFFFFF#32),
        (0x0000000A#32, 0xFFFFFFFF#32), (0x0000000B#32, 0xFFFFFFFF#32),
        (0x80000001#32, 0xDFFFFFFF#32), (0x80000002#32, 0xDFFFFFFF#32),
        (0x40000002#32, 0xDFFFFFFF#32), (0x80000008#32, 0xDFFFFFFF#32),
        (0x40000008#32, 0xDFFFFFFF#32), (0x80000006#32, 0xDF00FFFF#32),
        (0x40000006#32, 0xDF00FFFF#32), (0x8000000A#32, 0xDFFFFFFF#32),
        (0x4000000A#32, 0xDFFFFFFF#32), (0x8000000B#32, 0xDFFFFFFF#32),
        (0x4000000B#32, 0xDFFFFFFF#32), (0x80000004#32, 0xDFFEFFFF#32),
        (0x40000004#32, 0xDFFEFFFF#32), (0x80000003#32, 0xDFE0FFFF#32),
        (0x40000003#32, 0xDFE0FFFF#32) ] := by rfl
theorem test_masks :
    codes.infoMask = 0x00FF0000#32 ∧ codes.flagAck = 0x80000000#32 ∧ codes.flagNack = 0x40000000#32 ∧
      codes.flagCts = 0x20000000#32 := by decide
theorem test_rows_disjoint :
    ((tableRows codes).all fun r => (tableRows codes).all fun q =>
      r == q || (r.pattern ^^^ q.pattern) &&& (r.mask &&& q.mask) != 0#32) = true := by rfl
theorem test_offsets_found :
    regAt Config.defaults 0x2FC = some .mbx ∧ regAt Config.defaults 0x23C = some (.mbmem 15) ∧ regAt Config.defaults 0x240 = none ∧
      regAt Config.defaults 0x1068 = some (.rxdctl 1) ∧ regAt Config.defaults 0x2068 = some (.txdctl 1) ∧ regAt Config.defaults 0x100 = none := by
  decide

/-! ## Decoding: every message row, its words written out from 30_encoding.md -/

/-- The address `02:11:22:33:44:55` of 95_test_vectors.md. -/
def addrA : MacAddr := ⟨0x02#8, 0x11#8, 0x22#8, 0x33#8, 0x44#8, 0x55#8⟩
/-- The address `02:AA:BB:CC:DD:EE` of 95_test_vectors.md. -/
def addrB : MacAddr := ⟨0x02#8, 0xAA#8, 0xBB#8, 0xCC#8, 0xDD#8, 0xEE#8⟩

theorem test_decode_resetReq : decode codes [0x00000001#32] = .ok (.resetReq, []) := by rfl
theorem test_decode_setMacReq :
    decode codes [0x00000002#32, 0xCCBBAA02#32, 0x0000EEDD#32] = .ok (.setMacReq addrB, []) := by rfl
theorem test_decode_setVlanReq_on :
    decode codes [0x00010004#32, 0x00000FFF#32] = .ok (.setVlanReq 4095#12 true, []) := by rfl
theorem test_decode_setVlanReq_off :
    decode codes [0x00000004#32, 0x00000001#32] = .ok (.setVlanReq 1#12 false, []) := by rfl
theorem test_decode_setMulticastReq :
    decode codes [0x00030003#32, 0x00200010#32, 0x00000030#32]
      = .ok (.setMulticastReq [0x010#12, 0x020#12, 0x030#12], []) := by rfl
theorem test_decode_setMulticastReq_31 : decode codes [0x001F0003#32] = .error .countTooLarge := by rfl
theorem test_decode_setMacvlanReq :
    decode codes [0x00010006#32, 0x00000002#32, 0x00000100#32]
      = .ok (.setMacvlanReq 1#32 ⟨0x02#8, 0#8, 0#8, 0#8, 0#8, 0x01#8⟩, []) := by rfl
theorem test_decode_setMacvlanReq_clear :
    decode codes [0x00000006#32, 0#32, 0#32] = .ok (.setMacvlanReq 0#32 MacAddr.zero, []) := by rfl
theorem test_decode_apiNegotiateReq :
    decode codes [0x00000008#32, 0x00000003#32, 0#32] = .ok (.apiNegotiateReq 3#32, []) := by rfl
theorem test_decode_getRetaReq : decode codes [0x0000000A#32] = .ok (.getRetaReq, []) := by rfl
theorem test_decode_getRssKeyReq : decode codes [0x0000000B#32] = .ok (.getRssKeyReq, []) := by rfl
theorem test_decode_resetAck :
    decode codes [0x80000001#32, 0x33221102#32, 0xABCD5544#32, 0x00000007#32]
      = .ok (.resetAck false addrA 7#32, []) := by rfl
theorem test_decode_setMacAck_cts :
    decode codes [0xA0000002#32, 0xCCBBAA02#32, 0x0000EEDD#32] = .ok (.setMacAck true, []) := by rfl
theorem test_decode_setMacNack :
    decode codes [0x40000002#32, 0#32, 0#32] = .ok (.setMacNack false, []) := by rfl
theorem test_decode_apiNegotiateAck :
    decode codes [0x80000008#32, 0x00000002#32, 0#32] = .ok (.apiNegotiateAck false 2#32, []) := by rfl
theorem test_decode_apiNegotiateNack :
    decode codes [0x60000008#32, 0x00000006#32, 0#32] = .ok (.apiNegotiateNack true, []) := by rfl
theorem test_decode_setMacvlanAck :
    decode codes [0x80FF0006#32, 0#32, 0#32] = .ok (.setMacvlanAck false 255#32, []) := by rfl
theorem test_decode_setMacvlanNack :
    decode codes [0x40010006#32, 0#32, 0#32] = .ok (.setMacvlanNack false 1#32, []) := by rfl
theorem test_decode_getRetaSuccess :
    decode codes [0x8000000A#32, 0x1B#32, 1#32, 2#32, 3#32, 4#32, 5#32, 6#32, 7#32]
      = .ok (.getRetaSuccess false [0x1B#32, 1#32, 2#32, 3#32, 4#32, 5#32, 6#32, 7#32], []) := by rfl
theorem test_decode_getRetaFailure :
    decode codes (0x4000000A#32 :: List.replicate 8 0#32) = .ok (.getRetaFailure false, []) := by rfl
theorem test_decode_getRssKeySuccess :
    decode codes [0x8000000B#32, 0#32, 1#32, 2#32, 3#32, 4#32, 5#32, 6#32, 7#32, 8#32, 9#32]
      = .ok (.getRssKeySuccess false
          [0#32, 1#32, 2#32, 3#32, 4#32, 5#32, 6#32, 7#32, 8#32, 9#32], []) := by rfl
theorem test_decode_getRssKeyFailure :
    decode codes (0x4000000B#32 :: List.replicate 10 0#32) = .ok (.getRssKeyFailure false, []) := by rfl
theorem test_decode_setVlanAck :
    decode codes [0x80010004#32, 0x00000064#32] = .ok (.setVlanAck false true, []) := by rfl
theorem test_decode_setVlanNack :
    decode codes [0x40000004#32, 0#32] = .ok (.setVlanNack false false, []) := by rfl
theorem test_decode_setMulticastAck :
    decode codes [0x801E0003#32] = .ok (.setMulticastAck false 30#5, []) := by rfl
theorem test_decode_setMulticastNack :
    decode codes [0x60020003#32] = .ok (.setMulticastNack true 2#5, []) := by rfl
theorem test_decode_both_verdicts :
    decode codes [0xC0000002#32, 0#32, 0#32] = .error (.unknownWord0 0xC0000002#32) := by rfl
theorem test_decode_truncated : decode codes [0x00000002#32, 0#32] = .error (.truncated .setMacReq) := by rfl
theorem test_decode_empty : decode codes [] = .error .empty := by rfl
theorem test_table_word_second_word_above :
    decodeTableWord 64 0x0000006400010004 = some (.setVlanReq 100#12 true) := by decide

/-! ## Encoding (section 2.5 of 95_test_vectors.md) -/

theorem test_encode_setMac :
    encode codes (.setMacReq addrB) = [0x00000002#32, 0xCCBBAA02#32, 0x0000EEDD#32] := by decide
theorem test_encode_multicast :
    encode codes (.setMulticastReq [0xFB0#12, 0x563#12]) = [0x00020003#32, 0x05630FB0#32] := by decide
theorem test_encode_multicast_30 :
    (encode codes (.setMulticastReq (List.replicate 30 0#12))).length = 16 := by decide
theorem test_encode_clear_list :
    encode codes (macvlanRequest 0#32 addrB) = [0x00000006#32, 0#32, 0#32] := by decide

/-! ## Operand forms (sections 2.1, 2.2 and 2.4 of 95_test_vectors.md) -/

theorem test_unpack_ignores_padding : unpack48 0x33221102#32 0xABCD5544#32 = addrA := by decide
theorem test_key_bytes :
    keyBytes [0x03020100#32, 0x07060504#32] = [0#8, 1#8, 2#8, 3#8, 4#8, 5#8, 6#8, 7#8] := by decide
theorem test_pack16_odd :
    pack16 [0x010#16, 0x020#16, 0x030#16] = [0x00200010#32, 0x00000030#32] := by decide
theorem test_reta_entries :
    (retaOf [0x93939393#32]).take 8 = [3#2, 0#2, 1#2, 2#2, 3#2, 0#2, 1#2, 2#2] := by decide
theorem test_hash_ipv6 :
    mtaWindow ⟨0x33#8, 0x33#8, 0xFF#8, 0x12#8, 0x34#8, 0x56#8⟩ 0#32 = 0x563#12 ∧
    mtaWindow ⟨0x33#8, 0x33#8, 0xFF#8, 0x12#8, 0x34#8, 0x56#8⟩ 1#32 = 0xAC6#12 ∧
    mtaWindow ⟨0x33#8, 0x33#8, 0xFF#8, 0x12#8, 0x34#8, 0x56#8⟩ 2#32 = 0x58D#12 ∧
    mtaWindow ⟨0x33#8, 0x33#8, 0xFF#8, 0x12#8, 0x34#8, 0x56#8⟩ 3#32 = 0x634#12 ∧
    mtaWindow ⟨0x33#8, 0x33#8, 0xFF#8, 0x12#8, 0x34#8, 0x56#8⟩ 4#32 = 0#12 := by decide
theorem test_classify_cts :
    classify codes 0x60000002#32 2#32 codes.flagAck codes.flagNack = .negative := by decide
theorem test_classify_index :
    classify codes 0x80000006#32 0x00010006#32 codes.flagAck codes.flagNack = .mismatch := by decide
theorem test_classify_reserved_bit :
    classify codes 0x81000002#32 2#32 codes.flagAck codes.flagNack = .mismatch := by decide
theorem test_mbx_word : mbxWord window true true true true = 0x5C#32 := by decide

/-! ## A small state: one command at one point -/

/-- A frame of command `c` at point `p` that sends `req`. -/
def frameOf (c : Instr) (p : Point) (req : Option Instr) (req0 v : Word) : Frame :=
  { Frame.start c p req 1 with req0 := req0, v := v, n := some 1 }

/-- The state after reset with command `c` at point `p`. -/
def at0 (c : Instr) (p : Point) (req : Option Instr) (req0 v : Word) : State :=
  { State.reset with seq := .busy (frameOf c p req req0 v) }

/-- The state after reset in control state `fsm`, idle. -/
def inFsm (fsm : Fsm) : State :=
  { State.reset with h := { State.reset.h with fsm := fsm, adapterStopped := true } }

/-- The handle and result an outcome leads to, once its pending updates have happened. -/
def handleOf : Outcome → Option (Handle × Option Result)
  | .next t => some ((settled t).h, (settled t).result)
  | _ => none

/-! ## One step of each family -/

theorem test_start_step :
    handleOf (exec .start (at0 .start .run none 0#32 0#32))
      = some ({ handle0 with adapterStopped := false }, some ⟨.ok, .none⟩) := by decide
theorem test_stop_done :
    handleOf (exec .stop (at0 .stop .stopDone none 0#32 0#32))
      = some ({ handle0 with adapterStopped := true }, some ⟨.ok, .none⟩) := by decide
theorem test_stop_clears_enable : clearEnable window 0x02000020#32 = 0x00000020#32 := by decide
/-- F3: a reset reply that is not acknowledged. -/
theorem test_reset_nack :
    handleOf (exec .reset { at0 .reset .decode none 1#32 0#32 with
      msg := [0x40000001#32, 0x33221102#32, 0x00005544#32, 0#32] })
      = some ({ handle0 with fsm := .ready }, some ⟨.error .invalidMacAddr, .none⟩) := by
  decide
/-- F5: a filter type out of range is stored as it is. -/
theorem test_resetAck_type_7 :
    handleOf (exec (.resetAck false addrA 7#32) (at0 .reset .decode none 1#32 0#32))
      = some ({ handle0 with
          fsm := .ready, macValid := true, permAddr := addrA, mcFilterType := 7#32 },
          some ⟨.ok, .none⟩) := by decide
/-- P2 step 1: a rejected address leaves the permanent one current. -/
theorem test_setMac_nack_falls_back :
    handleOf (exec (.setMac addrB) { at0 (.setMac addrB) .decode none 2#32 0#32 with
      h := { handle0 with permAddr := addrA, macValid := true }
      msg := [0x40000002#32, 0xCCBBAA02#32, 0x0000EEDD#32] })
      = some ({ handle0 with permAddr := addrA, macValid := true, curAddr := addrA },
          some ⟨.error .nacked, .none⟩) := by decide
/-- Section 2.5: the version stored is the reply's, not the request's. -/
theorem test_negotiate_stores_reply :
    handleOf (exec (.apiNegotiateAck false 2#32) (at0 (.negotiateApi 3#32) .decode none 8#32 0#32))
      = some ({ handle0 with apiVersion := 2#32 }, some ⟨.ok, .none⟩) := by decide
/-- P2 step 3: an index that is not echoed. -/
theorem test_macvlan_index_not_echoed :
    handleOf (exec (.setMacvlanAck false 0#32)
      (at0 (.setMacvlan 1#32 addrB) .decode none 0x00010006#32 0#32))
      = some (handle0, some ⟨.error .protocolMismatch, .none⟩) := by decide
/-- R303: a NACK that is not seen. -/
theorem test_setVlanNack_is_ok :
    handleOf (exec (.setVlanNack false true) (at0 (.setVlan 100#12 true) .decode none 0x10004#32 0#32))
      = some (handle0, some ⟨.ok, .none⟩) := by decide
theorem test_getRssKeyFailure_denied :
    handleOf (exec (.getRssKeyFailure true) (at0 .getRssKey .decode none 0xB#32 0#32))
      = some (handle0, some ⟨.error .permissionDenied, .none⟩) := by decide
/-- S7: an unsupported version fails at once, in every control state. -/
theorem test_getReta_not_supported :
    handleOf (exec .getReta State.reset)
      = some (handle0, some ⟨.error .notSupported, .none⟩) := by decide
/-- S4: the reset indicator is not a link that is down. -/
theorem test_checkLink_reset :
    handleOf (exec .checkLink (at0 .checkLink .indicatorTest none 0#32 0x00000040#32))
      = some (handle0, some ⟨.error .resetInProgress, .link false .unknown⟩) := by decide
theorem test_checkLink_1G_down :
    handleOf (exec .checkLink (at0 .checkLink .linksTest none 0#32 0x20000000#32))
      = some ({ handle0 with linkSpeed := .speed1G },
          some ⟨.ok, .link false .speed1G⟩) := by decide
/-- T10. -/
theorem test_checkForRst_asserted :
    handleOf (exec (.checkForRst 0) (at0 (.checkForRst 0) .indicatorTest none 0#32 0x5C#32))
      = some (handle0, some ⟨.ok, .indicator true⟩) := by decide
/-- T6: the reset indicator comes before the reply. -/
theorem test_poll_reset_first :
    handleOf (exec (.readPosted 1 0) (at0 (.readPosted 1 0) .pollTest none 0#32 0x50#32))
      = some (handle0, some ⟨.error .resetInProgress, .none⟩) := by decide
/-- T4: the last permitted sample without a reply. -/
theorem test_poll_budget_1 :
    handleOf (exec (.readPosted 1 0) (at0 (.readPosted 1 0) .pollTest none 0#32 0#32))
      = some (handle0, some ⟨.error .transportTimeout, .none⟩) := by decide
/-- T11. -/
theorem test_writePosted_refused :
    exec (.writePosted [0#32] 1 1) State.reset = .next { State.reset with refusalMark := true } := by
  rfl
/-- F2. -/
theorem test_reset_refused :
    exec .reset State.reset = .next { State.reset with refusalMark := true } := by rfl
/-- T12. -/
theorem test_lock_denied :
    (applyMbx window 4#32 { device0 with pfu := true }).vfu = false ∧
      applyMbx window 2#32 { device0 with pfsts := true, vfu := true }
        = { device0 with ackPending := true } := by decide
/-- STOP's two handle writes and its return are three steps. -/
theorem test_stop_done_is_three_steps :
    (match runSteps 1 (at0 .stop .stopDone none 0#32 0#32) with
      | .next t => decide (t.h.adapterStopped = true) && decide (t.result = none)
      | _ => false) = true ∧
    (match runSteps 3 (at0 .stop .stopDone none 0#32 0#32) with
      | .next t => decide (t.seq = .idle) && decide (t.result = some ⟨.ok, .none⟩)
      | _ => false) = true := by decide
/-- SET_MAC writes words 1 and 2 before word 0 (R173). -/
theorem test_setMac_order :
    msgWrites (.setMacReq addrB) (encode codes (.setMacReq addrB))
      = [.msg 1 0xCCBBAA02#32, .msg 2 0x0000EEDD#32, .msg 0 2#32] := by decide
/-- With other constants: the failure flag of a query is not the NACK flag. -/
theorem test_other_codes :
    decode otherCodes (0x0020000A#32 :: List.replicate 8 0#32) = .ok (.getRetaFailure false, []) ∧
      decode otherCodes (0x4000000A#32 :: List.replicate 8 0#32)
        = .error (.unknownWord0 0x4000000A#32) := ⟨by rfl, by rfl⟩
theorem test_idle_block_waits : step State.reset = .next State.reset := by rfl
theorem test_fetch_word_runs_message :
    step (State.reset.withFetchWord 64 0x0000006400010004)
      = exec (.setVlanReq 100#12 true) (State.reset.withFetchWord 64 0x0000006400010004) := by rfl

/-! ## The conformant PF (R81) -/

/-- The device while the PF holds the buffer with an acknowledged SET_VLAN reply in it. -/
def replying : State :=
  { State.reset with
    dev := ({ device0 with pfu := true, reqPending := true }.setMbmemWord window 0 0x80010004#32) }

/-- A PF that has taken the SET_VLAN request of section 2.5 writes both words of its reply and posts it. -/
theorem test_pf_answers :
    (dutyAfter .lock replying ⟨[[0x00010004#32]], none, 1, 0⟩).bind (fun d =>
      (dutyAfter (.write 0 0x80010004#32) replying d).bind fun d =>
        (dutyAfter (.write 1 0#32) replying d).bind fun d => dutyAfter .post replying d)
      = some ⟨[], none, 1, 1⟩ := by decide
/-- A reply short of a word, a word outside the reply, and a lock without a request break R81. -/
theorem test_pf_breaks :
    dutyAfter .post replying ⟨[[0x00010004#32]], some [0], 1, 0⟩ = none ∧
      dutyAfter (.write 2 0#32) replying ⟨[[0x00010004#32]], some [], 1, 0⟩ = none ∧
      dutyAfter .lock replying ⟨[], none, 0, 0⟩ = none := by decide
/-- A conformant PF echoes the version (R180): the first two negotiations of section 2.5 are answered, the
second with a NACK, and the reply with version 2 there is no answer. -/
theorem test_pf_echoes_version :
    replyAnswers codes [8#32, 3#32, 0#32] [0x80000008#32, 3#32, 0#32] = true ∧
      replyAnswers codes [8#32, 6#32, 0#32] [0x40000008#32, 6#32, 0#32] = true ∧
      replyAnswers codes [8#32, 3#32, 0#32] [0x80000008#32, 2#32, 0#32] = false := by decide
/-- A posted message that looks like a reply is a request the PF does not know: it may answer with any words. -/
theorem test_pf_unknown_request :
    requestRowOf codes [0x80000002#32] = none ∧ requestRowOf codes [0x00000002#32] = some .setMacReq ∧
      replyIndexOk Config.defaults [0x80000002#32] 15 = true ∧
      replyIndexOk Config.defaults [0x00000002#32] 3 = false := by decide
/-- A conformant PF's reset reply has a filter type of 0 to 3 (R107), unless it is a NACK. -/
theorem test_pf_filter_type :
    replyAnswers codes [1#32] [0x80000001#32, 0x33221102#32, 0x5544#32, 3#32] = true ∧
      replyAnswers codes [1#32] [0x80000001#32, 0x33221102#32, 0x5544#32, 7#32] = false ∧
      replyAnswers codes [1#32] [0x40000001#32, 0#32, 0#32, 7#32] = true := by decide

/-! ## Witnesses: states and operands that meet a statement's hypotheses -/

theorem at0_at (c : Instr) (p : Point) (req : Option Instr) (req0 v : Word) :
    At (at0 c p req req0 v) (frameOf c p req req0 v) c p := ⟨rfl, rfl, rfl, rfl⟩

/-- The parameters of every state here are the spec's defaults, which meet the constraints. -/
theorem at0_ok (c : Instr) (p : Point) (req : Option Instr) (req0 v : Word) :
    (at0 c p req req0 v).cfg.Ok := Config.defaults_ok

/-- The same state with the device known to be gone. -/
def gone (s : State) : State := { s with h := { s.h with removed := true } }

/-- The same state with a valid permanent address. -/
def withMac (s : State) : State := { s with h := { s.h with macValid := true, permAddr := addrA } }

/-- The same state with another count. -/
def counting (n : Option Nat) (s : State) : State :=
  match s.seq with
  | .idle => s
  | .busy f => { s with seq := .busy { f with n := n } }

/-- The same state with updates pending. -/
def pendingAt (ps : List Prim) (s : State) : State :=
  match s.seq with
  | .idle => s
  | .busy f => plan ps f s

theorem witness_DecodeInvertsEncode :
    Config.defaults.codes.Ok ∧ ({ Config.defaults with codes := otherCodes } : Config.Params).codes.Ok ∧
    (Instr.setMulticastReq (List.replicate 30 0xFFF#12)).group ≠ .command ∧
    (Instr.setMulticastReq (List.replicate 30 0xFFF#12)).wellFormed Config.defaults = true ∧
    (Instr.setMacvlanReq 255#32 addrB).wellFormed Config.defaults = true :=
  ⟨Config.defaultCodes_ok, otherCodes_ok, by decide, by decide, by decide⟩

theorem witness_DecodedMessageKeepsWordZero :
    decode Config.defaults.codes [0x00010004#32, 0x00000FFF#32, 7#32]
      = .ok (.setVlanReq 4095#12 true, [7#32]) := by rfl

theorem witness_RequestWordZeroIsMk0 :
    (Instr.setMacvlanReq 255#32 addrB).group = .request ∧
    (Instr.setMacvlanReq 255#32 addrB).wellFormed Config.defaults = true := by decide

theorem witness_VlanRequestRoundTrips : 0x00010004#32 &&& codes.opcodeMask = codes.opSetVlan := by
  decide

theorem witness_PackingHelpers :
    ([1#32, 2#32] : List Word)[1]? = some 2#32 ∧ (3 < 4 ∧ 15 < 16) ∧
      2 * 1 < ([1#16, 2#16, 3#16] : List (BitVec 16)).length := by decide

theorem witness_ClassifyComparesWholeWord :
    0x00FF0006#32 &&& codes.flagMask = 0#32 ∧
    (codes.flagAck = codes.flagAck ∧ codes.flagNack = codes.flagNack) ∧
    0x20FF0006#32 &&& ~~~codes.flagCts ≠ 0x00FF0006#32 ||| codes.flagNack ∧
    0x20FF0006#32 &&& ~~~codes.flagCts ≠ 0x00FF0006#32 ||| codes.flagAck ∧
    0xA0FF0006#32 &&& ~~~codes.flagCts = 0x00FF0006#32 ||| codes.flagAck ∧
    0x60FF0006#32 &&& ~~~codes.flagCts = 0x00FF0006#32 ||| codes.flagNack := by decide

theorem witness_HashWindows : 3 < (4#32).toNat ∧ 3 < allOnes.toNat := by decide

theorem witness_StepRunsDecodedInstruction_vf :
    (at0 .start .run none 0#32 0#32).sched = [] ∧
    currentInstr (at0 .start .run none 0#32 0#32) = some .start ∧
    ({ at0 .start .run none 0#32 0#32 with sched := [.vf, .receive] } : State).sched
      = .vf :: [.receive] ∧
    (frameOf .start .run none 0#32 0#32).cmd.group = .command ∧
    (pendingAt [.stopped true] (at0 .start .run none 0#32 0#32)).seq
      = .busy { frameOf .start .run none 0#32 0#32 with todo := .stopped true :: [] } :=
  ⟨rfl, rfl, rfl, rfl, rfl⟩

/-- A reply, a request's own words read back (P5), and words that are no message, at the decode point. -/
theorem witness_StepRunsDecodedInstruction_decode :
    (frameOf (.setMac addrB) .decode none 2#32 0#32).point = .decode ∧
    (frameOf (.setMac addrB) .decode none 2#32 0#32).todo = [] ∧
    decode codes [0x80000002#32, 0#32, 0#32] = .ok (.setMacAck false, []) ∧
    (Instr.setMacAck false).group = .reply ∧
    decode codes [0x00000002#32, 0#32, 0#32] = .ok (.setMacReq MacAddr.zero, []) ∧
    (Instr.setMacReq MacAddr.zero).group ≠ .reply ∧
    decode codes [0x12345678#32] = .error (.unknownWord0 0x12345678#32) :=
  ⟨rfl, rfl, rfl, rfl, rfl, by decide, rfl⟩

theorem witness_DecodedReplyAgreesWithCommand :
    At { at0 .getReta .decode none 0xA#32 0#32 with msg := 0x8000000A#32 :: List.replicate 15 1#32 }
      (frameOf .getReta .decode none 0xA#32 0#32) .getReta .decode ∧
    isOperation .getReta = true ∧
    (frameOf .getReta .decode none 0xA#32 0#32).req0 = codes.opGetReta ∧
    decode codes (0x8000000A#32 :: List.replicate 15 1#32)
      = .ok (.getRetaSuccess false (List.replicate 8 1#32), List.replicate 7 1#32) :=
  ⟨⟨rfl, rfl, rfl, rfl⟩, rfl, rfl, rfl⟩

theorem witness_SecondCommandIsRefused :
    ({ at0 .start .run none 0#32 0#32 with sched := [.issue .stop] } : State).seq ≠ .idle ∧
    ({ State.reset with sched := [.issue .stop] } : State).sched = .issue .stop :: [] ∧
    State.reset.seq = .idle ∧ Instr.stop.group = .command ∧ (∀ a b, Instr.stop ≠ .exchange a b) ∧
    ({ State.reset with sched := [.receive] } : State).sched = .receive :: [] :=
  ⟨by decide, rfl, rfl, rfl, by simp, rfl⟩

theorem witness_AlwaysAdmittedCommands :
    State.reset.seq = .idle ∧ State.reset.cfg.numQueues ≠ 0 ∧
    ({ State.reset with cfg := { Config.defaults with numQueues := 0 } } : State).cfg.numQueues = 0 :=
  ⟨rfl, by decide, rfl⟩

theorem witness_ResetAdmission :
    ((inFsm .stopped).seq = .idle ∧ (inFsm .stopped).h.fsm = .stopped ∧
      (inFsm .stopped).h.adapterStopped = true) ∧
    ((inFsm .ready).seq = .idle ∧ (inFsm .ready).h.fsm ≠ .stopped) ∧
    State.reset.h.adapterStopped = false := by decide

theorem witness_OperationAdmission :
    (inFsm .ready).seq = .idle ∧ (inFsm .ready).h.fsm = .ready ∧ (inFsm .stopped).h.fsm ≠ .ready ∧
    isOperation (.setMac addrB) = true ∧ isOperation (.setVlan 1#12 true) = true ∧
    isOperation (.updateMc []) = true ∧ isOperation (.setMacvlan 0#32 addrB) = true ∧
    isOperation (.negotiateApi 3#32) = true ∧ Instr.setMac addrB ≠ .getReta ∧
    Instr.setMac addrB ≠ .getRssKey ∧
    (255#32).toNat < 2 ^ (inFsm .ready).cfg.codes.infoWidth ∧
    2 ^ (inFsm .ready).cfg.codes.infoWidth ≤ (256#32).toNat := by decide

/-- A state whose negotiated version is supported. -/
def supported (fsm : Fsm) : State :=
  { inFsm fsm with h := { (inFsm fsm).h with apiVersion := 3#32 } }

theorem witness_QueryAdmission :
    ¬ (State.reset.h.apiVersion ∈ State.reset.cfg.apiRssSet ∧ State.reset.cfg.gen = .g82599) ∧
    ((supported .ready).seq = .idle ∧ (supported .ready).h.apiVersion ∈ (supported .ready).cfg.apiRssSet
      ∧ (supported .ready).cfg.gen = .g82599 ∧ (supported .ready).h.fsm = .ready) ∧
    (supported .stopped).h.apiVersion ∈ (supported .stopped).cfg.apiRssSet ∧
    (supported .stopped).h.fsm ≠ .ready := by decide

theorem witness_TransportAdmission :
    State.reset.seq = .idle ∧ (List.replicate 16 0#32).length = 16 ∧ 1 ≤ 16 ∧
    16 ≤ State.reset.cfg.mbxSize ∧ (List.replicate 17 0#32).length = 17 ∧
    State.reset.cfg.mbxSize < 17 ∧ ([] : List Word).length = 0 ∧
    (Instr.setMacAck true).group ≠ .command ∧ Instr.exchange 1 3 = .exchange 1 3 ∧
    ({ State.reset with sched := [.issue (.exchange 1 3)] } : State).sched
      = .issue (.exchange 1 3) :: [] := by decide

theorem witness_commands_without_registers :
    At (at0 .start .run none 0#32 0#32) (frameOf .start .run none 0#32 0#32) .start .run ∧
    At (at0 .init .run none 0#32 0#32) (frameOf .init .run none 0#32 0#32) .init .run ∧
    (at0 .init .run none 0#32 0#32).h.macValid = false ∧
    At (withMac (at0 .init .run none 0#32 0#32)) (frameOf .init .run none 0#32 0#32) .init .run ∧
    (withMac (at0 .init .run none 0#32 0#32)).h.macValid = true ∧
    At (at0 (.mtaVector addrA 3#32) .run none 0#32 0#32)
      (frameOf (.mtaVector addrA 3#32) .run none 0#32 0#32) (.mtaVector addrA 3#32) .run ∧
    3#32 = 3#32 ∧ 3 < (4#32).toNat ∧ State.reset.seq = .idle ∧
    ({ State.reset with tape := [(pack48 addrA).1, (pack48 addrA).2] } : State).tape
      = (pack48 addrA).1 :: (pack48 addrA).2 :: [] ∧
    At (at0 (.readHandle .permAddr) .run none 0#32 0#32)
      (frameOf (.readHandle .permAddr) .run none 0#32 0#32) (.readHandle .permAddr) .run ∧
    HandleField.removed ≠ .permAddr :=
  ⟨at0_at _ _ _ _ _, at0_at _ _ _ _ _, rfl, ⟨rfl, rfl, rfl, rfl⟩, rfl, at0_at _ _ _ _ _, rfl,
    by decide, rfl, rfl, at0_at _ _ _ _ _, by decide⟩

/-- STOP at each of its points, present and gone, at its last queue. -/
theorem witness_StopMarksStopped :
    (∀ p, At (at0 .stop p none 0#32 0#32) (frameOf .stop p none 0#32 0#32) .stop p) ∧
    (∀ p, At (gone (at0 .stop p none 0#32 0#32)) (frameOf .stop p none 0#32 0#32) .stop p) ∧
    ¬ 7 + 1 < (at0 .stop .rxWrite none 0#32 0#32).cfg.numQueues ∧
    6 + 1 < (at0 .stop .rxWrite none 0#32 0#32).cfg.numQueues :=
  ⟨fun _ => at0_at _ _ _ _ _, fun _ => ⟨rfl, rfl, rfl, rfl⟩, by decide, by decide⟩

/-- An address that `any()` draws, for READ_HANDLE and for the NACK of SET_MAC while no address is valid. -/
theorem witness_drawn_address (c : Instr) (p : Point) (a : MacAddr) :
    let s : State := { at0 c p none 2#32 0#32 with tape := [(pack48 a).1, (pack48 a).2] }
    At s (frameOf c p none 2#32 0#32) c p ∧ s.h.macValid = false ∧
      s.tape = (pack48 a).1 :: (pack48 a).2 :: [] := ⟨⟨rfl, rfl, rfl, rfl⟩, rfl, rfl⟩

/-- A reply row of another operation, at the decode point of each operation with the request word it sent. -/
theorem witness_ForeignRepliesMismatch :
    (∀ c req0, At (at0 c .decode none req0 0#32) (frameOf c .decode none req0 0#32) c .decode ∧
      (frameOf c .decode none req0 0#32).req0 = req0 ∧ (at0 c .decode none req0 0#32).cfg.codes.Ok) ∧
    (Instr.setVlanAck false true).group = .reply ∧
    (∀ cts y, Instr.setVlanAck false true ≠ .setMacvlanAck cts y ∧
      Instr.setVlanAck false true ≠ .setMacvlanNack cts y) ∧
    (∀ cts u, Instr.setVlanAck false true ≠ .apiNegotiateAck cts u ∧
      Instr.setVlanAck false true ≠ .apiNegotiateNack cts) ∧
    (∀ cts ws, Instr.setVlanAck false true ≠ .getRetaSuccess cts ws ∧
      Instr.setVlanAck false true ≠ .getRetaFailure cts) ∧
    (∀ cts ws, Instr.setVlanAck false true ≠ .getRssKeySuccess cts ws ∧
      Instr.setVlanAck false true ≠ .getRssKeyFailure cts) :=
  ⟨fun _ _ => ⟨at0_at _ _ _ _ _, rfl, Config.defaultCodes_ok⟩, rfl, by simp, by simp, by simp, by simp⟩

theorem witness_ResetInterpretsReply :
    At { at0 .reset .decode none 1#32 0#32 with
      msg := [0xA0000001#32, 0x33221102#32, 0x00005544#32, 7#32] }
      (frameOf .reset .decode none 1#32 0#32) .reset .decode ∧ codes.Ok ∧
    0xA0000001#32 &&& ~~~codes.flagCts = codes.opReset ||| codes.flagAck ∧
    word0 (at0 .reset .decode none 1#32 0#32).msg &&& ~~~codes.flagCts
      ≠ codes.opReset ||| codes.flagAck :=
  ⟨⟨rfl, rfl, rfl, rfl⟩, Config.defaultCodes_ok, by decide, by decide⟩

/-- The four cases of the indicator loop: gone, cleared, the last asserted sample, an earlier one. -/
theorem witness_ResetIndicatorLoop :
    (∀ v, At (at0 .reset .rstTest none 0#32 v) (frameOf .reset .rstTest none 0#32 v) .reset .rstTest ∧
      (frameOf .reset .rstTest none 0#32 v).n = some 1) ∧
    (gone (at0 .reset .rstTest none 0#32 0#32)).h.removed = true ∧
    (at0 .reset .rstTest none 0#32 0#32).h.removed = false ∧
    (0x1C#32).getLsbD window.mbxRstip = false ∧ (0x40#32).getLsbD window.mbxRstip = true ∧ 1 < 2 ∧
    (counting (some 2) (at0 .reset .rstTest none 0#32 0x40#32)).seq
      = .busy { frameOf .reset .rstTest none 0#32 0x40#32 with n := some 2 } :=
  ⟨fun _ => ⟨at0_at _ _ _ _ _, rfl⟩, rfl, rfl, by decide, by decide, by decide, rfl⟩

theorem witness_ResetWritesOnTheWay :
    (∀ p, At (at0 .reset p none 0#32 0#32) (frameOf .reset p none 0#32 0#32) .reset p) ∧
    (at0 .reset .ctrlWrite none 0#32 0#32).h.removed = false ∧
    At (gone (at0 .reset .ctrlWrite none 0#32 0#32)) (frameOf .reset .ctrlWrite none 0#32 0#32) .reset
      .ctrlWrite ∧ (gone (at0 .reset .ctrlWrite none 0#32 0#32)).h.removed = true :=
  ⟨fun _ => at0_at _ _ _ _ _, rfl, ⟨rfl, rfl, rfl, rfl⟩, rfl⟩

theorem witness_CheckForRstReturnsIndicator :
    At (at0 (.checkForRst 0) .indicatorTest none 0#32 0x40#32)
      (frameOf (.checkForRst 0) .indicatorTest none 0#32 0x40#32) (.checkForRst 0) .indicatorTest ∧
    At (at0 (.checkForRst 0) .indicatorRead none 0#32 0#32)
      (frameOf (.checkForRst 0) .indicatorRead none 0#32 0#32) (.checkForRst 0) .indicatorRead ∧
    (at0 (.checkForRst 0) .indicatorRead none 0#32 0#32).cfg.Ok ∧
    (at0 (.checkForRst 0) .indicatorRead none 0#32 0#32).dev.removed = false ∧
    ({ at0 (.checkForRst 0) .indicatorRead none 0#32 0#32 with
      dev := { device0 with removed := true } } : State).dev.removed = true ∧
    (at0 (.checkForRst 0) .indicatorRead none 0#32 0#32).wbuf = [] ∧
    (gone (at0 (.checkForRst 0) .indicatorRead none 0#32 0#32)).h.removed = true :=
  ⟨at0_at _ _ _ _ _, at0_at _ _ _ _ _, at0_ok _ _ _ _ _, rfl, rfl, rfl, rfl⟩

/-- CHECK_LINK's points, and its cases: gone, reset asserted, reset cleared, and the four patterns of
`LINKS.SPEED`. -/
theorem witness_CheckLink :
    (∀ p v, At (at0 .checkLink p none 0#32 v) (frameOf .checkLink p none 0#32 v) .checkLink p) ∧
    (at0 .checkLink .linksTest none 0#32 0#32).h.removed = false ∧
    (gone (at0 .checkLink .linksTest none 0#32 0#32)).h.removed = true ∧
    (at0 .checkLink .linksTest none 0#32 0#32).cfg.Ok ∧
    (0x40#32).getLsbD window.mbxRstip = true ∧ (0x10#32).getLsbD window.mbxRstip = false ∧
    (0x70000000#32).extractLsb' window.linksSpeedLo 2 = window.linksSpeed10G ∧
    (0x60000000#32).extractLsb' window.linksSpeedLo 2 = window.linksSpeed1G ∧
    (0x50000000#32).extractLsb' window.linksSpeedLo 2 = window.linksSpeed100M ∧
    (0x40000000#32).extractLsb' window.linksSpeedLo 2 ∉ window.speedCodes ∧
    ({ at0 .checkLink .linksTest none 0#32 0x40000000#32 with tape := [1#32] } : State).tape
      = 1#32 :: [] :=
  ⟨fun _ _ => at0_at _ _ _ _ _, rfl, rfl, Config.defaults_ok, by decide, by decide, by decide,
    by decide, by decide, by decide, rfl⟩

/-- Every request row at the encode point of a command that sends it. -/
theorem witness_requests_are_staged (r : Instr) :
    (at0 (commandOf r) .encode (some r) 0#32 0#32).seq
      = .busy (frameOf (commandOf r) .encode (some r) 0#32 0#32) ∧
    (frameOf (commandOf r) .encode (some r) 0#32 0#32).todo = [] ∧
    (frameOf (commandOf r) .encode (some r) 0#32 0#32).point = .encode ∧
    (frameOf (commandOf r) .encode (some r) 0#32 0#32).req = some r ∧
    255#32 ≠ 0#32 ∧ (List.replicate 30 0#12).length ≤ 30 :=
  ⟨rfl, rfl, rfl, rfl, by decide, by decide⟩

theorem witness_UpdateMcHashesFirstThirty :
    At (at0 (.updateMc (List.replicate 31 addrA)) .hash (some (.setMulticastReq [])) 0#32 0#32)
      (frameOf (.updateMc (List.replicate 31 addrA)) .hash (some (.setMulticastReq [])) 0#32 0#32)
      (.updateMc (List.replicate 31 addrA)) .hash ∧
    (frameOf (.updateMc (List.replicate 31 addrA)) .hash (some (.setMulticastReq [])) 0#32 0#32).req
      = some (.setMulticastReq []) := ⟨at0_at _ _ _ _ _, rfl⟩

/-- Every operation at its decode point, with the request word it sent and each kind of reply word. -/
theorem witness_replies_are_interpreted :
    (∀ c req0, At (at0 c .decode none req0 0#32) (frameOf c .decode none req0 0#32) c .decode ∧
      (frameOf c .decode none req0 0#32).req0 = req0 ∧
      (at0 c .decode none req0 0#32).cfg.codes.Ok ∧
      (at0 c .decode none req0 0#32).h.reta.length = 128) ∧
    2#32 &&& codes.flagMask = 0#32 ∧ codes.opSetMacAddr = 2#32 ∧
    0xA0000002#32 &&& ~~~codes.flagCts = 2#32 ||| codes.flagAck ∧
    0x60000002#32 &&& ~~~codes.flagCts = 2#32 ||| codes.flagNack ∧
    0x80000003#32 &&& ~~~codes.flagCts ≠ 2#32 ||| codes.flagAck ∧
    0x80000003#32 &&& ~~~codes.flagCts ≠ 2#32 ||| codes.flagNack ∧
    (at0 (.setMac addrB) .decode none 2#32 0#32).h.macValid = false ∧
    (withMac (at0 (.setMac addrB) .decode none 2#32 0#32)).h.macValid = true ∧
    0x00FF0006#32 = codes.opSetMacvlan ||| (255#32 <<< codes.infoShift) ∧
    (255#32).toNat < 2 ^ codes.infoWidth ∧ 0#32 ≠ 255#32 ∧
    (List.replicate 8 0#32).length = 8 ∧ (List.replicate 10 0#32).length = 10 ∧
    (Instr.setVlanAck false true).group = .reply ∧
    (∀ cts, Instr.setVlanAck false true ≠ .setMacAck cts ∧
      Instr.setVlanAck false true ≠ .setMacNack cts) ∧
    (∀ cts p t, Instr.setVlanAck false true ≠ .resetAck cts p t) :=
  ⟨fun _ _ => ⟨at0_at _ _ _ _ _, rfl, Config.defaultCodes_ok, rfl⟩, by decide, rfl, by decide,
    by decide, by decide, by decide, rfl, rfl, by decide, by decide, by decide, by decide, by decide,
    rfl, fun _ => ⟨by simp, by simp⟩, fun _ _ _ => by simp⟩

/-- A command that uses the transport, at any point of it, present or gone. -/
theorem witness_transport_points (p : Point) (v : Word) :
    usesTransport (.setVlan 1#12 true) = true ∧ usesTransport .reset = true ∧
    usesTransport (.writePosted [v] 1 0) = true ∧ usesTransport (.readPosted 1 0) = true ∧
    usesTransport (.exchange 1 1) = true ∧
    (∀ c, At (at0 c p none 0#32 v) (frameOf c p none 0#32 v) c p) ∧
    (∀ c, At (gone (at0 c p none 0#32 v)) (frameOf c p none 0#32 v) c p) ∧
    (at0 .reset p none 0#32 v).h.removed = false ∧ (gone (at0 .reset p none 0#32 v)).h.removed = true ∧
    (frameOf .reset p none 0#32 v).n = some 1 ∧ 2000#32 ≠ 0#32 :=
  ⟨rfl, rfl, rfl, rfl, rfl, fun _ => at0_at _ _ _ _ _, fun _ => ⟨rfl, rfl, rfl, rfl⟩, rfl, rfl, rfl,
    by decide⟩

/-- The samples of PollExitPriority: reset, granted, replied, neither; counts 1, 2 and `INF`. -/
theorem witness_PollExitPriority :
    (0x50#32).getLsbD window.mbxRstip = true ∧ (0x04#32).getLsbD window.mbxRstip = false ∧
    (0x04#32).getLsbD window.mbxVfu = true ∧ (0x10#32).getLsbD window.mbxPfsts = true ∧
    (0x10#32).getLsbD window.mbxRstip = false ∧ (0x08#32).getLsbD window.mbxVfu = false ∧
    (0x08#32).getLsbD window.mbxPfsts = false ∧
    (counting (some 2) (at0 .reset .pollTest none 0#32 8#32)).seq
      = .busy { frameOf .reset .pollTest none 0#32 8#32 with n := some (0 + 2) } ∧
    (counting none (at0 .reset .pollTest none 0#32 8#32)).seq
      = .busy { frameOf .reset .pollTest none 0#32 8#32 with n := none } :=
  ⟨by decide, by decide, by decide, by decide, by decide, by decide, by decide, rfl, rfl⟩

/-- A READ_POSTED that times out with a drawn content for its buffer, one that finds the device gone inside
its copy loop, and a WRITE_POSTED that times out. -/
theorem witness_FailedReadScramblesBufferAndMsg :
    (∃ t, exec (.readPosted 1 0)
        { at0 (.readPosted 1 0) .pollTest none 0#32 0#32 with tape := [9#32] ++ [8#32] ++ [] } = .next t ∧
      (settled t).seq = .idle ∧ (settled t).result = some ⟨.error .transportTimeout, .none⟩) ∧
    isReadPoint .pollTest = true ∧ (frameOf (.readPosted 1 0) .pollTest none 0#32 0#32).rspLen = 1 ∧
    (∃ t, exec (.readPosted 1 0) (gone (at0 (.readPosted 1 0) .copyInTest none 0#32 0#32)) = .next t ∧
      (settled t).seq = .idle ∧ (settled t).result = some ⟨.error .deviceRemoved, .none⟩) ∧
    isReadPoint .copyInTest = true ∧
    (∃ t, exec (.exchange 1 1)
        { at0 (.exchange 1 1) .pollTest none 0#32 0#32 with tape := [9#32] ++ [] } = .next t ∧
      (settled t).seq = .idle ∧ (settled t).result = some ⟨.error .transportTimeout, .none⟩) ∧
    (∃ t, exec (.writePosted [5#32] 1 0) (at0 (.writePosted [5#32] 1 0) (.lockTest .post) none 0#32 0#32)
        = .next t ∧
      (settled t).seq = .idle ∧ (settled t).result = some ⟨.error .transportTimeout, .none⟩) ∧
    isPostPoint (.lockTest .post) = true :=
  ⟨⟨_, rfl, rfl, rfl⟩, rfl, rfl, ⟨_, rfl, rfl, rfl⟩, rfl, ⟨_, rfl, rfl, rfl⟩, ⟨_, rfl, rfl, rfl⟩, rfl⟩

theorem witness_PostedMessageIsDelivered :
    State.reset.cfg.Ok ∧ State.reset.seq = .idle ∧ State.reset.sched = [] ∧ State.reset.wbuf = [] ∧
    1 ≤ (List.replicate 16 7#32).length ∧ (List.replicate 16 7#32).length ≤ State.reset.cfg.mbxSize ∧
    State.reset.h.removed = false ∧ State.reset.dev.removed = false ∧
    State.reset.dev.rstip = false ∧ State.reset.dev.pfu = false ∧
    Memory.wf State.reset.dev.mbmem = true :=
  ⟨Config.defaults_ok, rfl, rfl, rfl, by decide, by decide, rfl, rfl, rfl, rfl, rfl⟩

theorem witness_MbxWriteSemantics : State.reset.cfg.Ok ∧ State.reset.dev.removed = false :=
  ⟨Config.defaults_ok, rfl⟩

/-- One posted write for each register the drain tells apart, the first and last of each bank. -/
theorem witness_DrainAppliesOldestWrite (off : Nat) :
    ({ State.reset with wbuf := [(off, 5#32)] } : State).wbuf = (off, 5#32) :: [] ∧
    State.reset.h.removed = false ∧ (gone State.reset).h.removed = true ∧
    (0 < Config.defaults.mbxSize ∧ 0x200 = window.offMbmem + 4 * 0) ∧
    (15 < Config.defaults.mbxSize ∧ 0x23C = window.offMbmem + 4 * 15) ∧
    window.offRxdctl[0]? = some 0x1028 ∧ window.offRxdctl[7]? = some 0x11E8 ∧
    window.offTxdctl[0]? = some 0x2028 ∧ window.offTxdctl[7]? = some 0x21E8 ∧
    (5#32).getLsbD window.ctrlRst = false ∧ (0x04000000#32).getLsbD window.ctrlRst = true ∧
    0x240 ∉ window.offsets Config.defaults.mbxSize ∧
    ({ State.reset with sched := [.dev .drain] } : State).sched = .dev .drain :: [] ∧
    ({ State.reset with dev := { device0 with removed := true } } : State).dev.removed = true :=
  ⟨rfl, rfl, rfl, by decide, by decide, rfl, rfl, rfl, rfl, by decide, by decide, by decide, rfl, rfl⟩

theorem witness_FunctionLevelReset :
    ({ State.reset with wbuf := [(0, 0x04000000#32)] } : State).wbuf
      = [(State.reset.cfg.window.offCtrl, 0x04000000#32)] ∧
    (0x04000000#32).getLsbD window.ctrlRst = true ∧ Memory.wf State.reset.dev.mbmem = true ∧
    State.reset.dev.removed = false ∧ (List.replicate 16 9#32).length = State.reset.cfg.mbxSize ∧
    ({ State.reset with tape := List.replicate 16 9#32 ++ [] } : State).tape
      = List.replicate 16 9#32 ++ [] := ⟨rfl, by decide, rfl, rfl, rfl, rfl⟩

theorem witness_RegReadDrainsAndDetectsRemoval :
    State.reset.h.removed = false ∧ (gone State.reset).h.removed = true ∧
    ({ State.reset with dev := { device0 with removed := true } } : State).dev.removed = true ∧
    State.reset.wbuf = [] ∧ ({ State.reset with tape := [1#32] } : State).tape = 1#32 :: [] ∧
    Reg.mbmem 15 = .mbmem 15 ∧ Reg.mbmem 15 ≠ .status ∧ Reg.mbmem 15 ≠ .ctrl ∧
    ({ State.reset with tape := [allOnes] } : State).tape = 0xFFFFFFFF#32 :: [] ∧
    State.reset.dev.removed = false ∧ (∃ x, State.reset.dev.queues[7]? = some x) ∧
    (regRead (.rxdctl 7) State.reset).1 ≠ 0xFFFFFFFF#32 :=
  ⟨rfl, rfl, rfl, rfl, rfl, rfl, by decide, by decide, rfl, rfl, ⟨_, rfl⟩, by decide⟩

theorem witness_PfStepsAsSpecified :
    ({ State.reset with sched := [.pf (.link 7#32)] } : State).sched = .pf (.link 7#32) :: [] ∧
    ({ device0 with reqPending := true } : Device).reqPending = true ∧
    ({ device0 with ackPending := true } : Device).ackPending = true ∧
    device0.vfu = false ∧ ({ device0 with pfu := true } : Device).pfu = true ∧
    (0 < Config.defaults.mbxSize ∧ 15 < Config.defaults.mbxSize) :=
  ⟨rfl, rfl, rfl, rfl, rfl, by decide⟩

theorem witness_OtherAgentsLeaveTheBlock :
    ({ State.reset with sched := [.pf (.write 0 5#32), .dev .drain] } : State).sched
      = .pf (.write 0 5#32) :: [.dev .drain] ∧
    pfEnabled Config.defaults (.write 0 5#32) device0 = false ∧
    pfEnabled Config.defaults (.write 16 5#32) { device0 with pfu := true } = false ∧
    ({ State.reset with sched := [.dev .drain] } : State).sched = .dev .drain :: [] ∧
    State.reset.wbuf = [] := ⟨rfl, rfl, rfl, rfl, rfl⟩

/-! ## Witnesses for the rules of the whole machine -/

theorem witness_InvariantHoldsAtReset : Config.defaults.Ok ∧
    ({ Config.defaults with codes := otherCodes } : Config.Params).Ok :=
  ⟨Config.defaults_ok, { Config.defaults_ok with codes := otherCodes_ok }⟩

/-- A machine that is `Ready` and armed, with the default parameters. -/
def ready : State :=
  { State.reset with h := { handle0 with fsm := .ready, mbxTimeout := 2000#32 } }

/-- A running command with no update pending, in a machine of the default parameters, meets the invariant
when the control rules hold. -/
theorem inv_of_control {h : Handle} {f : Frame} {sched : List Move}
    (hk : h.rssKey.length = 40) (ht : h.reta.length = 128) (hp : pointOf f.cmd f.point = true)
    (hf : f.todo = [])
    (hc : Control { State.reset with h := h, seq := .busy f, sched := sched }) :
    Inv { State.reset with h := h, seq := .busy f, sched := sched } where
  params := Config.defaults_ok
  msgLength := rfl
  hostBufLength := rfl
  keyLength := hk
  retaLength := ht
  queuesLength := rfl
  memory := rfl
  lock := by rintro ⟨h, _⟩; cases h
  pending := by
    rintro g hg; cases hg; simp [hp, hf]
  middle := hc.middle
  control := by rwa [settled_none (f := f) rfl hf]

/-- SET_VLAN at the start of WRITE_POSTED. -/
def vlanFrame : Frame :=
  { Frame.start (.setVlan 1#12 true) .postStart (some (.setVlanReq 1#12 true)) 2 with
    req0 := 0x00010004#32 }

/-- That machine with SET_VLAN at the start of WRITE_POSTED. -/
def readyBusy : State := { ready with seq := .busy vlanFrame }

theorem inv_readyBusy (sched : List Move) : Inv { readyBusy with sched := sched } :=
  inv_of_control rfl rfl rfl rfl
    { frame := by rintro f hf; cases hf; rfl
      operation := fun _ _ _ => rfl
      phase := by rintro f hf; cases hf; intro h; cases h
      middle := by rintro (h | h) <;> cases h
      armed := fun _ => rfl
      rebased := by rintro f hf; cases hf; intro h; cases h }

/-- STOP about to end in a machine that is `Ready`. -/
def stopping : State := { ready with seq := .busy (Frame.start .stop .stopDone none 0) }

theorem inv_stopping : Inv stopping :=
  inv_of_control rfl rfl rfl rfl
    { frame := by rintro f hf; cases hf; rfl
      operation := by rintro f hf; cases hf; intro h; cases h
      phase := by rintro f hf; cases hf; intro h; cases h
      middle := by rintro (h | h) <;> cases h
      armed := fun _ => rfl
      rebased := by rintro f hf; cases hf; intro h; cases h }

/-- RESET at a point, in the control state of that point, armed. -/
def resettingAt (p : Point) (v : Word) : State :=
  { State.reset with
    h := { handle0 with fsm := resetPhase p, mbxTimeout := 2000#32, adapterStopped := true }
    seq := .busy (frameOf .reset p (some .resetReq) 1#32 v) }

theorem inv_resettingAt (p : Point) (v : Word) (hp : pointOf .reset p = true) (hh : p ≠ .hash) :
    Inv (resettingAt p v) :=
  inv_of_control rfl rfl hp rfl
    { frame := by
        rintro f hf; cases hf
        show Frame.ok _ (frameOf .reset p (some .resetReq) 1#32 v) = true
        simp only [Frame.ok, frameOf, Frame.start, hp, hh]
        decide
      operation := by rintro f hf; cases hf; intro h; cases h
      phase := by rintro f hf; cases hf; intro _; rfl
      middle := fun _ => ⟨_, rfl, rfl⟩
      armed := fun _ => rfl
      rebased := by rintro f hf; cases hf; intro _ _; rfl }

theorem witness_EveryStepKeepsTheInvariant : Inv readyBusy ∧ ∃ t, step readyBusy = .next t :=
  ⟨inv_readyBusy [], _, rfl⟩

theorem witness_StepNeverStops : Inv readyBusy := inv_readyBusy []

/-- The transitions: by STOP, out of RESET's loop, to `AwaitingPermAddr`, and to `Ready` by a transport
error and by a reply; and a step that writes `H.fsm`. -/
theorem witness_ControlStateTransitions :
    (Inv stopping ∧ ∃ t, step stopping = .next t ∧ (settled t).h.fsm ≠ (settled stopping).h.fsm) ∧
    (Inv (resettingAt .rstTest 0x40#32) ∧ ∃ t, step (resettingAt .rstTest 0x40#32) = .next t ∧
      (settled t).h.fsm = .stopped) ∧
    (Inv (resettingAt .await 0#32) ∧ ∃ t, step (resettingAt .await 0#32) = .next t ∧
      t.h.fsm ≠ (resettingAt .await 0#32).h.fsm) ∧
    (Inv (resettingAt .pollTest 0x40#32) ∧ ∃ t, step (resettingAt .pollTest 0x40#32) = .next t ∧
      (settled t).h.fsm = .ready) ∧
    (Inv (resettingAt .decode 0#32) ∧ ∃ t, step (resettingAt .decode 0#32) = .next t ∧
      (settled t).h.fsm = .ready) :=
  ⟨⟨inv_stopping, _, rfl, by decide⟩,
    ⟨inv_resettingAt _ _ (by decide) (by decide), _, rfl, by decide⟩,
    ⟨inv_resettingAt _ _ (by decide) (by decide), _, rfl, by decide⟩,
    ⟨inv_resettingAt _ _ (by decide) (by decide), _, rfl, by decide⟩,
    ⟨inv_resettingAt _ _ (by decide) (by decide), _, rfl, by decide⟩⟩

/-- A pending update of a command that may make it. -/
theorem pendingOk_single (c : Instr) (p : Point) (x : Prim) (hp : pointOf c p = true)
    (hx : primOk c x = true) : PendingOk (pendingAt [x] (at0 c p none 0#32 0#32)) := by
  rintro f hf; cases hf
  refine ⟨hp, ?_, by simp, ?_⟩
  · rintro y hy; rw [List.mem_singleton.1 hy]; exact hx
  · exact List.countP_le_length

/-- Steps after which a handle register differs, for each register: the pending update of its writer. -/
theorem witness_HandleRegisterWriters :
    (∃ t, step (pendingAt [.permAddr addrA] (at0 .reset .decode none 0#32 0#32)) = .next t ∧
      t.h.permAddr ≠ MacAddr.zero) ∧
    (∃ t, step (pendingAt [.curAddr addrA] (at0 (.setMac addrA) .decode none 0#32 0#32)) = .next t ∧
      t.h.curAddr ≠ MacAddr.zero) ∧
    (∃ t, step (pendingAt [.apiVersion 3#32] (at0 (.negotiateApi 3#32) .decode none 0#32 0#32))
        = .next t ∧ t.h.apiVersion ≠ 0#32) ∧
    (∃ t, step (pendingAt [.reta 127 3#2] (at0 .getReta .decode none 0#32 0#32)) = .next t ∧
      t.h.reta ≠ handle0.reta) ∧
    (∃ t, step (pendingAt [.rssKey (List.replicate 40 1#8)] (at0 .getRssKey .decode none 0#32 0#32))
        = .next t ∧ t.h.rssKey ≠ handle0.rssKey) ∧
    (∃ t, step (pendingAt [.linkUp true] (at0 .checkLink .linksTest none 0#32 0#32)) = .next t ∧
      t.h.linkUp ≠ false) ∧
    (∃ t, step (pendingAt [.stopped true] (at0 .stop .stopDone none 0#32 0#32)) = .next t ∧
      t.h.adapterStopped ≠ false) ∧
    PendingOk (pendingAt [.permAddr addrA] (at0 .reset .decode none 0#32 0#32)) ∧
    PendingOk (pendingAt [.curAddr addrA] (at0 (.setMac addrA) .decode none 0#32 0#32)) ∧
    PendingOk (pendingAt [.apiVersion 3#32] (at0 (.negotiateApi 3#32) .decode none 0#32 0#32)) ∧
    PendingOk (pendingAt [.reta 127 3#2] (at0 .getReta .decode none 0#32 0#32)) ∧
    PendingOk (pendingAt [.rssKey (List.replicate 40 1#8)] (at0 .getRssKey .decode none 0#32 0#32)) ∧
    PendingOk (pendingAt [.linkUp true] (at0 .checkLink .linksTest none 0#32 0#32)) ∧
    PendingOk (pendingAt [.stopped true] (at0 .stop .stopDone none 0#32 0#32)) ∧
    (gone State.reset).h.removed = true :=
  ⟨⟨_, rfl, by decide⟩, ⟨_, rfl, by decide⟩, ⟨_, rfl, by decide⟩, ⟨_, rfl, by decide⟩,
    ⟨_, rfl, by decide⟩, ⟨_, rfl, by decide⟩, ⟨_, rfl, by decide⟩, pendingOk_single _ _ _ rfl rfl,
    pendingOk_single _ _ _ rfl rfl, pendingOk_single _ _ _ rfl rfl, pendingOk_single _ _ _ rfl rfl,
    pendingOk_single _ _ _ rfl (by decide), pendingOk_single _ _ _ rfl rfl,
    pendingOk_single _ _ _ rfl rfl, rfl⟩

/-- CHECK_LINK about to test a sample of `MBX`, in a machine that is `Ready`. -/
def testingLink (v : Word) : State :=
  { ready with seq := .busy (frameOf .checkLink .indicatorTest none 0#32 v) }

theorem inv_testingLink (v : Word) : Inv (testingLink v) :=
  inv_of_control rfl rfl rfl rfl
    { frame := by rintro f hf; cases hf; rfl
      operation := by rintro f hf; cases hf; intro h; cases h
      phase := by rintro f hf; cases hf; intro h; cases h
      middle := by rintro (h | h) <;> cases h
      armed := fun _ => rfl
      rebased := by rintro f hf; cases hf; intro h; cases h }

/-- Deciding steps that end a command: RESET's poll and its decoder, and CHECK_LINK's test. -/
theorem witness_StatusMatrix_decided :
    (Inv (resettingAt .pollTest 0x40#32) ∧
      settled (resettingAt .pollTest 0x40#32) = resettingAt .pollTest 0x40#32 ∧
      ∃ t, step (resettingAt .pollTest 0x40#32) = .next t ∧ (settled t).seq = .idle ∧
        (settled t).result = some ⟨.error .resetInProgress, .none⟩) ∧
    (Inv (resettingAt .decode 0#32) ∧ settled (resettingAt .decode 0#32) = resettingAt .decode 0#32 ∧
      ∃ t, step (resettingAt .decode 0#32) = .next t ∧ (settled t).seq = .idle) ∧
    (Inv (testingLink 0x40#32) ∧ settled (testingLink 0x40#32) = testingLink 0x40#32 ∧
      ∃ t, step (testingLink 0x40#32) = .next t ∧ (settled t).seq = .idle ∧
        (settled t).result = some ⟨.error .resetInProgress, .link false .unknown⟩) :=
  ⟨⟨inv_resettingAt _ _ (by decide) (by decide), rfl, _, rfl, by decide, by decide⟩,
    ⟨inv_resettingAt _ _ (by decide) (by decide), rfl, _, rfl, by decide⟩,
    ⟨inv_testingLink _, rfl, _, rfl, by decide, by decide⟩⟩

/-- A command refused, a query not supported, a status the matrix allows, and a pending end. -/
theorem witness_StatusMatrix_ended :
    (State.reset.seq = .idle ∧ ∃ t, exec (.setMac addrA) State.reset = .next t ∧ t.seq = .idle) ∧
    (∃ t, exec .getReta State.reset = .next t ∧ t.seq = .idle) ∧
    statusAllowed .getReta (.error .notSupported) = true ∧
    statusAllowed .getRssKey (.error .permissionDenied) = true ∧
    PendingOk (pendingAt [raise .nacked] (at0 (.setMac addrA) .decode none 0#32 0#32)) ∧
    ∃ t, step (pendingAt [raise .nacked] (at0 (.setMac addrA) .decode none 0#32 0#32)) = .next t ∧
      t.seq = .idle :=
  ⟨⟨rfl, _, rfl, rfl⟩, ⟨_, rfl, rfl⟩, by decide, by decide, pendingOk_single _ _ _ rfl (by decide), _, rfl,
    rfl⟩

theorem witness_StickyMarksStay :
    ∃ t, step { gone State.reset with
      refusalMark := true, dev := { device0 with removed := true } } = .next t := ⟨_, rfl⟩

theorem witness_StopAlwaysSucceeds :
    ready.cfg.Ok ∧ ready.dev.queues.length = ready.cfg.numQueues ∧ ready.seq = .idle ∧
    ready.sched = [] ∧ ready.wbuf = [] := ⟨Config.defaults_ok, rfl, rfl, rfl, rfl⟩

theorem witness_ResetAgainstSilentPfFails :
    (inFsm .stopped).cfg.Ok ∧ (inFsm .stopped).seq = .idle ∧ (inFsm .stopped).sched = [] ∧
    (inFsm .stopped).wbuf = [] ∧ (inFsm .stopped).h.fsm = .stopped ∧
    (inFsm .stopped).h.adapterStopped = true := ⟨Config.defaults_ok, rfl, rfl, rfl, rfl, rfl⟩

/-- An operation of the default machine, with `UNARMED_BUDGET = INF`; a move of the block and one of the PF;
and steps that accept a command, an operation and one of the transport's own. -/
theorem witness_CommandsTerminate :
    Inv readyBusy ∧ FiniteBudgets readyBusy ∧ (∃ t, step readyBusy = .next t) ∧
    readyBusy.seq = .busy vlanFrame ∧ BlockMoves readyBusy ∧ readyBusy.cfg.unarmedBudget = none ∧
    (Inv { readyBusy with sched := [.pf .lock] } ∧
      ¬ BlockMoves { readyBusy with sched := [.pf .lock] }) ∧
    ready.seq = .idle ∧
    (∃ t f, step { ready with sched := [.issue (.setVlan 1#12 true)] } = .next t ∧ t.seq = .busy f ∧
      isTransport f.cmd = false) ∧
    ∃ t f, step { ready with sched := [.issue (.writePosted [7#32] 1 0)] } = .next t ∧ t.seq = .busy f ∧
      isTransport f.cmd = true ∧ t.h.mbxTimeout ≠ 0#32 := by
  refine ⟨inv_readyBusy [], ?_, ⟨_, rfl⟩, rfl, rfl, rfl, ⟨inv_readyBusy _, ?_⟩, rfl,
    ⟨_, _, rfl, rfl, rfl⟩, ⟨_, _, rfl, rfl, rfl, by decide⟩⟩
  · rintro f hf; cases hf
    exact ⟨(by intro h; cases h), (by intro h; cases h)⟩
  · unfold BlockMoves; decide

end Sys2Proof.Tests
end

section
/-!
What a step of the machine is: whose move it is, what the block runs at its decode point, and what as many
steps as there are pending updates lead to.
-/

namespace Sys2Proof.Machine

open Sys2Proof

/-! ## Whose move it is -/

/-- With no move scheduled the block executes its current instruction (R6). -/
theorem step_unscheduled {s : State} {i : Instr} (hs : s.sched = []) (hi : currentInstr s = some i) :
    step s = exec i s := by
  simp [step, nextMove, hs, hi]

/-- A scheduled move of the block is taken from the schedule, and the block executes its current
instruction, which the schedule does not influence (R6). -/
theorem step_scheduled_vf {s : State} {i : Instr} {rest : List Move} (hs : s.sched = .vf :: rest)
    (hi : currentInstr s = some i) : step s = exec i { s with sched := rest } := by
  have hi' : currentInstr { s with sched := rest } = some i := hi
  simp [step, nextMove, hs, hi']

/-- An idle block with no move scheduled waits. -/
theorem step_idle {s : State} (hs : s.sched = []) (hi : s.seq = .idle) : step s = .next s := by
  simp [step, nextMove, hs, currentInstr, hi]

/-! ## The current instruction of a running command -/

/-- A pending update is the command's (R35). -/
theorem currentInstr_pending {s : State} {f : Frame} (hs : s.seq = .busy f) (ht : f.todo ≠ []) :
    currentInstr s = some f.cmd := by
  simp [currentInstr, hs, ht]

/-- A reply found in `MSG` at the decode point is the current instruction. -/
theorem currentInstr_decode_reply {s : State} {f : Frame} {i : Instr} {rest : List Word}
    (hs : s.seq = .busy f) (hp : f.point = .decode) (ht : f.todo = [])
    (hd : decode s.cfg.codes s.msg = .ok (i, rest)) (hg : i.group = .reply) :
    currentInstr s = some i := by
  simp [currentInstr, hs, hp, ht, hd, hg]

/-- A message of the table that is no reply is left to the running command at the decode point. -/
theorem currentInstr_decode_other {s : State} {f : Frame} {i : Instr} {rest : List Word}
    (hs : s.seq = .busy f) (hp : f.point = .decode) (ht : f.todo = [])
    (hd : decode s.cfg.codes s.msg = .ok (i, rest)) (hg : i.group ≠ .reply) :
    currentInstr s = some f.cmd := by
  simp [currentInstr, hs, hp, ht, hd, hg]

/-- Words that are no message of the table are left to the running command at the decode point. -/
theorem currentInstr_decode_error {s : State} {f : Frame} {e : DecodeError} (hs : s.seq = .busy f)
    (hp : f.point = .decode) (ht : f.todo = []) (hd : decode s.cfg.codes s.msg = .error e) :
    currentInstr s = some f.cmd := by
  simp [currentInstr, hs, hp, ht, hd]

/-! ## Pending updates, one a step -/

/-- The next pending update is the first of the list. -/
theorem runNext_cons {s : State} {f : Frame} {p : Prim} {ps : List Prim} (hs : s.seq = .busy f)
    (ht : f.todo = p :: ps) : runNext s = runPrim p (plan ps f s) := by
  simp [runNext, hs, ht, perform_cons]

/-- A step of a running command with an update pending is that update (R35). -/
theorem step_pending {s : State} {f : Frame} (hsched : s.sched = []) (hs : s.seq = .busy f)
    (hg : f.cmd.group = .command) (ht : f.todo ≠ []) : step s = .next (runNext s) := by
  rw [step_unscheduled hsched (currentInstr_pending hs ht), exec_pending hs ht hg]

theorem reaches_succ {s t u : State} {k : Nat} (h : step s = .next t) (ht : Reaches k t u) :
    Reaches (k + 1) s u := by
  simpa [Reaches, runSteps, h] using ht

/-- An idle block stays where it is while no move is scheduled. -/
theorem reaches_idle {s : State} (hs : s.sched = []) (hi : s.seq = .idle) (k : Nat) : Reaches k s s := by
  induction k with
  | zero => rfl
  | succ k ih => exact reaches_succ (step_idle hs hi) ih

/-- As many steps of the block as there are pending updates lead to the settled state; after an update
that ends the command the remaining ones are steps of an idle block. -/
theorem reaches_settled {ps : List Prim} {s : State} {f : Frame} (hsched : s.sched = [])
    (hs : s.seq = .busy f) (hg : f.cmd.group = .command) (ht : f.todo = ps) :
    Reaches ps.length s (settled s) := by
  induction ps generalizing s f with
  | nil => rw [settled_none hs ht]; rfl
  | cons p ps ih =>
    have hstep : step s = .next (runNext s) := step_pending hsched hs hg (by simp [ht])
    refine reaches_succ hstep ?_
    have hsched' : (runNext s).sched = [] := by simp [hsched]
    rw [← settled_runNext s]
    cases hp : p.isEnd with
    | true =>
      have hidle : (runNext s).seq = .idle := by
        rw [runNext_cons hs ht]; exact (runPrim_idle (plan_seq ps f s)).2 hp
      rw [settled_idle hidle]
      exact reaches_idle hsched' hidle _
    | false =>
      obtain ⟨r, hr⟩ := runPrim_busy (plan_seq ps f s) hp
      rw [← runNext_cons hs ht] at hr
      exact ih hsched' hr hg rfl

/-- Settles O9: the block's move is `exec` of the current instruction, and the pending updates are made by
induction on their list. -/
theorem stepRunsDecodedInstruction : Obligations.StepRunsDecodedInstruction := by
  refine ⟨fun s i => ⟨step_unscheduled, fun _ => step_scheduled_vf⟩,
    fun s f hsched hs hp ht => ⟨?_, ?_, ?_⟩, fun s f hsched hs hg => ⟨?_, ?_⟩⟩
  · exact fun i rest hd hg => step_unscheduled hsched (currentInstr_decode_reply hs hp ht hd hg)
  · exact fun i rest hd hg => step_unscheduled hsched (currentInstr_decode_other hs hp ht hd hg)
  · exact fun e hd => step_unscheduled hsched (currentInstr_decode_error hs hp ht hd)
  · intro p ps ht
    rw [step_pending hsched hs hg (by simp [ht]), runNext_cons hs ht]
  · exact reaches_settled hsched hs hg rfl

end Sys2Proof.Machine
end

section
/-!
The decoder reads back what the encoder writes: the three fields of word 0 (R101 to R104), the row that
word 0 selects, the payload forms (R65, R112), and the round trip of every message row.
-/

namespace Sys2Proof.Machine

open Sys2Proof

variable {c : Config.Codes}

/-! ## Where the fields of word 0 stand (R9, R101) -/

/-- The opcode field is lowest (R9 (ii)). -/
theorem opcode_bit_lt (hc : c.Ok) {op : Word} (hop : op ∈ c.opcodes) {k : Nat}
    (hk : op.getLsbD k = true) : k < c.infoShift := by
  by_contra hge
  have hlow : c.opcodeMask.toNat < 2 ^ k :=
    lt_of_lt_of_le hc.opcodeLow (Nat.pow_le_pow_right (by decide) (by omega))
  rw [← hc.opcodesFit op hop, BitVec.getLsbD_and] at hk
  simp [BitVec.getLsbD, Nat.testBit_lt_two_pow hlow] at hk

theorem opcode_bit_eq_false (hc : c.Ok) {op : Word} (hop : op ∈ c.opcodes) {k : Nat}
    (hk : c.infoShift ≤ k) : op.getLsbD k = false :=
  Bool.eq_false_iff.2 fun h => Nat.not_lt.2 hk (opcode_bit_lt hc hop h)

/-- The flag field is highest (R9 (ii)). -/
theorem flagMask_bit_ge (hc : c.Ok) {k : Nat} (hk : c.flagMask.getLsbD k = true) :
    c.infoShift + c.infoWidth ≤ k := by
  by_contra hlt
  have h := Nat.testBit_mod_two_pow c.flagMask.toNat (c.infoShift + c.infoWidth) k
  rw [hc.flagsHigh] at h
  simp_all [BitVec.getLsbD]

theorem infoMask_getLsbD (hc : c.Ok) (k : Nat) :
    c.infoMask.getLsbD k = decide (c.infoShift ≤ k ∧ k < c.infoShift + c.infoWidth) := by
  have hfit := hc.infoFits
  simp only [Config.Codes.infoMask, Config.Codes.infoOnes, BitVec.getLsbD_shiftLeft, BitVec.getLsbD_ofNat,
    Nat.testBit_two_pow_sub_one]
  grind

/-- The bit positions of the five flags (R9). -/
def flagBits (c : Config.Codes) : List Nat :=
  [c.ackBit, c.nackBit, c.ctsBit, c.successBit, c.failureBit]

/-- A flag's bit position lies in the word, above the info field (R9 (ii), (iii)). -/
theorem flagBit_bounds (hc : c.Ok) {b : Nat} (hb : b ∈ flagBits c) :
    c.infoShift + c.infoWidth ≤ b ∧ b < 32 :=
  ⟨flagMask_bit_ge hc (hc.flagsInside b hb), BitVec.lt_of_getLsbD (hc.flagsInside b hb)⟩

theorem ctsBit_bounds (hc : c.Ok) : c.infoShift + c.infoWidth ≤ c.ctsBit ∧ c.ctsBit < 32 :=
  flagBit_bounds hc (by simp [flagBits])

/-- A word with one bit set has that bit and no other. -/
theorem oneBit_getLsbD {b : Nat} (hb : b < 32) (k : Nat) :
    (1#32 <<< b).getLsbD k = decide (k = b) := by
  have h : (1#32 <<< b).getLsbD k = (decide (b < 32) && decide (b = k)) := BitVec.getLsbD_twoPow b k
  simp [h, hb, eq_comm]

theorem oneBit_inj {b b' : Nat} (hb : b < 32) (hb' : b' < 32) (h : 1#32 <<< b = 1#32 <<< b') :
    b = b' := by
  have hbit := oneBit_getLsbD hb' b
  rw [← h, oneBit_getLsbD hb] at hbit
  simpa using hbit

theorem oneBit_ne_zero {b : Nat} (hb : b < 32) : 1#32 <<< b ≠ 0#32 := by
  intro h
  have hbit := oneBit_getLsbD hb b
  simp [h] at hbit

theorem flagCts_getLsbD (hc : c.Ok) (k : Nat) : c.flagCts.getLsbD k = decide (k = c.ctsBit) :=
  oneBit_getLsbD (ctsBit_bounds hc).2 k

/-- The word is a verdict flag or no flag: its bits lie above the info field and `FLAG_CTS` is none of
them (R104). -/
def IsVerdict (c : Config.Codes) (flag : Word) : Prop :=
  ∀ k, flag.getLsbD k = true → c.infoShift + c.infoWidth ≤ k ∧ k ≠ c.ctsBit

theorem IsVerdict.bit_eq_false {flag : Word} (hf : IsVerdict c flag) {k : Nat}
    (hk : k < c.infoShift + c.infoWidth ∨ k = c.ctsBit) : flag.getLsbD k = false :=
  Bool.eq_false_iff.2 fun h => by
    have := hf k h
    omega

theorem isVerdict_zero : IsVerdict c 0#32 := by simp [IsVerdict]

theorem isVerdict_bit (hc : c.Ok) {b : Nat} (hb : b ∈ flagBits c) (hne : b ≠ c.ctsBit) :
    IsVerdict c (1#32 <<< b) := by
  intro k hk
  obtain ⟨hge, hlt⟩ := flagBit_bounds hc hb
  obtain rfl : k = b := by simpa [oneBit_getLsbD hlt] using hk
  exact ⟨hge, hne⟩

theorem isVerdict_ack (hc : c.Ok) : IsVerdict c c.flagAck :=
  isVerdict_bit hc (by simp [flagBits]) (by have := hc.ackNackCts; simp_all)
theorem isVerdict_nack (hc : c.Ok) : IsVerdict c c.flagNack :=
  isVerdict_bit hc (by simp [flagBits]) (by have := hc.ackNackCts; simp_all)
theorem isVerdict_success (hc : c.Ok) : IsVerdict c c.flagSuccess :=
  isVerdict_bit hc (by simp [flagBits]) (by have := hc.successFailureCts; simp_all)
theorem isVerdict_failure (hc : c.Ok) : IsVerdict c c.flagFailure :=
  isVerdict_bit hc (by simp [flagBits]) (by have := hc.successFailureCts; simp_all)

/-! ## Operands in the info field (R102, R103) -/

/-- The bits `free` of word 0 lie in the info field and hold all of the operand `info`. -/
structure InfoOperand (c : Config.Codes) (info free : Word) : Prop where
  inside : ∀ k, free.getLsbD k = true → c.infoShift ≤ k ∧ k < c.infoShift + c.infoWidth
  holds : ∀ k, info.getLsbD k = true → free.getLsbD (c.infoShift + k) = true

theorem infoOperand_none : InfoOperand c 0#32 0#32 := ⟨by simp, by simp⟩

theorem vlanInfo_getLsbD (hc : c.Ok) (k : Nat) :
    (vlanInfo c).getLsbD k = decide (k = c.infoShift) :=
  oneBit_getLsbD (by have := hc.infoFits; have := hc.infoWide; omega) k

theorem ofBit_getLsbD (b : Bool) (k : Nat) : (ofBit b : Word).getLsbD k = (b && decide (k = 0)) := by
  cases b <;> simp [ofBit, BitVec.getLsbD_one]

theorem infoOperand_vlan (hc : c.Ok) (b : Bool) : InfoOperand c (ofBit b) (vlanInfo c) where
  inside k hk := by
    have := hc.infoWide
    simp [vlanInfo_getLsbD hc] at hk
    omega
  holds k hk := by
    simp [ofBit_getLsbD] at hk
    simp [vlanInfo_getLsbD hc, hk]

theorem countInfo_getLsbD (hc : c.Ok) (k : Nat) :
    (countInfo c).getLsbD k = decide (c.infoShift ≤ k ∧ k < c.infoShift + 5) := by
  have hfit := hc.infoFits
  have hwide := hc.infoWide
  have hones (j : Nat) : (31#32).getLsbD j = decide (j < 5) := by
    rw [show (31#32) = BitVec.ofNat 32 (2 ^ 5 - 1) from rfl, BitVec.getLsbD_ofNat,
      Nat.testBit_two_pow_sub_one]
    grind
  simp only [countInfo, BitVec.getLsbD_shiftLeft, hones]
  grind

theorem bit_lt_of_toNat_lt {info : Word} {n k : Nat} (hi : info.toNat < 2 ^ n)
    (hk : info.getLsbD k = true) : k < n :=
  (Nat.pow_lt_pow_iff_right (by decide)).1 (lt_of_le_of_lt (Nat.ge_two_pow_of_testBit hk) hi)

theorem infoOperand_count (hc : c.Ok) {info : Word} (hi : info.toNat < 2 ^ 5) :
    InfoOperand c info (countInfo c) where
  inside k hk := by
    have := hc.infoWide
    simp [countInfo_getLsbD hc] at hk
    omega
  holds k hk := by
    simp [countInfo_getLsbD hc, bit_lt_of_toNat_lt hi hk]

theorem infoOperand_index (hc : c.Ok) {info : Word} (hi : info.toNat < 2 ^ c.infoWidth) :
    InfoOperand c info c.infoMask where
  inside k hk := by simpa [infoMask_getLsbD hc] using hk
  holds k hk := by simp [infoMask_getLsbD hc, bit_lt_of_toNat_lt hi hk]

/-! ## Word 0 of a message (R101 to R104) -/

/-- The parts of a message's word 0: an opcode, an operand in the bits `free` of the info field, a verdict
or none. -/
structure WordZero (c : Config.Codes) (op info free flag : Word) : Prop where
  opcode : op ∈ c.opcodes
  operand : InfoOperand c info free
  verdict : IsVerdict c flag

/-- A request's word 0 is a reply's with no flag (R102, R104). -/
theorem replyWord_noFlag (op info : Word) : replyWord c op info 0#32 false = mk0 c op info := by
  simp [replyWord]

/-- Each bit of word 0 comes from one of its parts. -/
theorem replyWord_getLsbD (hc : c.Ok) (op info flag : Word) (cts : Bool) {k : Nat} (hk : k < 32) :
    (replyWord c op info flag cts).getLsbD k = (op.getLsbD k
      || (decide (c.infoShift ≤ k) && info.getLsbD (k - c.infoShift)) || flag.getLsbD k
      || (cts && decide (k = c.ctsBit))) := by
  have hcts : (if cts then c.flagCts else 0#32).getLsbD k = (cts && decide (k = c.ctsBit)) := by
    cases cts <;> simp [flagCts_getLsbD hc]
  simp only [replyWord, mk0, BitVec.getLsbD_or, BitVec.getLsbD_shiftLeft, hcts, hk, decide_true,
    Bool.true_and, ← decide_not, Nat.not_lt]

namespace WordZero

variable {op info free flag : Word}

theorem info_bit_eq_false (hw : WordZero c op info free flag) {k : Nat} (hk : c.infoWidth ≤ k) :
    info.getLsbD k = false :=
  Bool.eq_false_iff.2 fun h => by
    have := (hw.operand.inside _ (hw.operand.holds k h)).2
    omega

/-- The info field of word 0 holds the operand. -/
theorem getLsbD_info (hc : c.Ok) (hw : WordZero c op info free flag) (cts : Bool) {k : Nat}
    (hk : k < c.infoWidth) :
    (replyWord c op info flag cts).getLsbD (c.infoShift + k) = info.getLsbD k := by
  have hfit := hc.infoFits
  have hcts := (ctsBit_bounds hc).1
  rw [replyWord_getLsbD hc _ _ _ _ (by omega), opcode_bit_eq_false hc hw.opcode (by omega),
    hw.verdict.bit_eq_false (by omega)]
  simp [show c.infoShift + k ≠ c.ctsBit by omega]

theorem infoField_eq (hc : c.Ok) (hw : WordZero c op info free flag) (cts : Bool) :
    infoField c (replyWord c op info flag cts) = info := by
  refine BitVec.eq_of_getLsbD_eq fun k _ => ?_
  simp only [infoField, BitVec.getLsbD_ushiftRight, BitVec.getLsbD_and, infoMask_getLsbD hc]
  by_cases hk : k < c.infoWidth
  · simp [hk, hw.getLsbD_info hc cts hk]
  · simp [hk, hw.info_bit_eq_false (Nat.not_lt.1 hk)]

theorem vlanOnBit_eq (hc : c.Ok) (hw : WordZero c op info free flag) (cts : Bool) :
    vlanOnBit c (replyWord c op info flag cts) = info.getLsbD 0 :=
  hw.getLsbD_info hc cts (k := 0) (by have := hc.infoWide; omega)

theorem countField_eq (hc : c.Ok) (hw : WordZero c op info free flag) (cts : Bool) :
    countField c (replyWord c op info flag cts) = info.setWidth 5 := by
  refine BitVec.eq_of_getLsbD_eq fun k hk => ?_
  have hwide := hc.infoWide
  simp [countField, hk, hw.getLsbD_info hc cts (by omega : k < c.infoWidth)]

theorem ctsBit_eq (hc : c.Ok) (hw : WordZero c op info free flag) (cts : Bool) :
    ctsBit c (replyWord c op info flag cts) = cts := by
  obtain ⟨hge, hlt⟩ := ctsBit_bounds hc
  rw [ctsBit, hasBit, replyWord_getLsbD hc _ _ _ _ hlt, opcode_bit_eq_false hc hw.opcode (by omega),
    hw.info_bit_eq_false (by omega), hw.verdict.bit_eq_false (.inr rfl)]
  simp

/-- Word 0 matches the reply row of its parts (R104). -/
theorem matches_reply (hc : c.Ok) (hw : WordZero c op info free flag) (cts : Bool) :
    replyWord c op info flag cts &&& ~~~(c.flagCts ||| free) = op ||| flag := by
  refine BitVec.eq_of_getLsbD_eq fun k hk => ?_
  have hcts := (ctsBit_bounds hc).1
  have hop := opcode_bit_lt hc hw.opcode (k := k)
  have hin := hw.operand.inside k
  have hinfo := hw.operand.holds (k - c.infoShift)
  have hflag := hw.verdict k
  simp only [BitVec.getLsbD_and, BitVec.getLsbD_not, BitVec.getLsbD_or, flagCts_getLsbD hc,
    replyWord_getLsbD hc _ _ _ _ hk]
  grind

/-- A word 0 without flags matches the request row of its parts (R102). -/
theorem matches_request (hc : c.Ok) (hw : WordZero c op info free 0#32) :
    mk0 c op info &&& ~~~free = op := by
  refine BitVec.eq_of_getLsbD_eq fun k hk => ?_
  have hop := opcode_bit_lt hc hw.opcode (k := k)
  have hin := hw.operand.inside k
  have hinfo := hw.operand.holds (k - c.infoShift)
  rw [← replyWord_noFlag]
  simp only [BitVec.getLsbD_and, BitVec.getLsbD_not, replyWord_getLsbD hc _ _ _ _ hk]
  grind

end WordZero

/-! ## The row word 0 selects -/

/-- The opcode and the verdict of every row, in the table's order. -/
def messageKeys (c : Config.Codes) : List (Word × Word) :=
  [ (c.opReset, 0#32), (c.opSetMacAddr, 0#32), (c.opSetVlan, 0#32), (c.opSetMulticast, 0#32),
    (c.opSetMacvlan, 0#32), (c.opApiNegotiate, 0#32), (c.opGetReta, 0#32), (c.opGetRssKey, 0#32),
    (c.opReset, c.flagAck), (c.opSetMacAddr, c.flagAck), (c.opSetMacAddr, c.flagNack),
    (c.opApiNegotiate, c.flagAck), (c.opApiNegotiate, c.flagNack), (c.opSetMacvlan, c.flagAck),
    (c.opSetMacvlan, c.flagNack), (c.opGetReta, c.flagSuccess), (c.opGetReta, c.flagFailure),
    (c.opGetRssKey, c.flagSuccess), (c.opGetRssKey, c.flagFailure), (c.opSetVlan, c.flagAck),
    (c.opSetVlan, c.flagNack), (c.opSetMulticast, c.flagAck), (c.opSetMulticast, c.flagNack) ]

theorem tableRows_patterns (c : Config.Codes) :
    (tableRows c).map TableRow.pattern = (messageKeys c).map fun k => k.1 ||| k.2 := by
  simp [tableRows, requestRows, replyRows, requestRow, replyRow, messageKeys]

theorem messageKeys_parts (hc : c.Ok) {k : Word × Word} (hk : k ∈ messageKeys c) :
    k.1 ∈ c.opcodes ∧ IsVerdict c k.2 := by
  revert k
  simp [messageKeys, Config.Codes.opcodes, isVerdict_zero, isVerdict_ack hc, isVerdict_nack hc,
    isVerdict_success hc, isVerdict_failure hc]

theorem flag_ne_zero (hc : c.Ok) {b : Nat} (hb : b ∈ flagBits c) : 1#32 <<< b ≠ 0#32 :=
  oneBit_ne_zero (flagBit_bounds hc hb).2

theorem flag_inj (hc : c.Ok) {b b' : Nat} (hb : b ∈ flagBits c) (hb' : b' ∈ flagBits c)
    (h : 1#32 <<< b = 1#32 <<< b') : b = b' :=
  oneBit_inj (flagBit_bounds hc hb).2 (flagBit_bounds hc hb').2 h

theorem flagAck_ne_flagNack (hc : c.Ok) : c.flagAck ≠ c.flagNack := fun h => by
  have := hc.ackNackCts
  have := flag_inj hc (by simp [flagBits]) (by simp [flagBits]) h
  simp_all

theorem flagSuccess_ne_flagFailure (hc : c.Ok) : c.flagSuccess ≠ c.flagFailure := fun h => by
  have := hc.successFailureCts
  have := flag_inj hc (by simp [flagBits]) (by simp [flagBits]) h
  simp_all

/-- No two rows have the same opcode and verdict: two rows of one opcode differ in the verdict (R9 (i),
(iii)). -/
theorem messageKeys_nodup (hc : c.Ok) : (messageKeys c).Nodup := by
  have hops := hc.opcodesNodup
  have hops' := List.nodup_reverse.2 hc.opcodesNodup
  have hack : 0#32 ≠ c.flagAck := (flag_ne_zero hc (b := c.ackBit) (by simp [flagBits])).symm
  have hnack : 0#32 ≠ c.flagNack := (flag_ne_zero hc (b := c.nackBit) (by simp [flagBits])).symm
  have hsuccess : 0#32 ≠ c.flagSuccess := (flag_ne_zero hc (b := c.successBit) (by simp [flagBits])).symm
  have hfailure : 0#32 ≠ c.flagFailure := (flag_ne_zero hc (b := c.failureBit) (by simp [flagBits])).symm
  have hverdict := flagAck_ne_flagNack hc
  have hquery := flagSuccess_ne_flagFailure hc
  simp [Config.Codes.opcodes] at hops hops'
  simp [messageKeys, hops, hops', hack, hnack, hsuccess, hfailure, hverdict, hquery]

/-- An opcode and a verdict are read back from the word that holds both. -/
theorem or_inj_of_parts (hc : c.Ok) {op op' flag flag' : Word} (hop : op ∈ c.opcodes)
    (hop' : op' ∈ c.opcodes) (hf : IsVerdict c flag) (hf' : IsVerdict c flag')
    (h : op ||| flag = op' ||| flag') : op = op' ∧ flag = flag' := by
  have hbit (k : Nat) : (op.getLsbD k || flag.getLsbD k) = (op'.getLsbD k || flag'.getLsbD k) := by
    simpa only [BitVec.getLsbD_or] using congrArg (·.getLsbD k) h
  have hlow {k : Nat} (hk : k < c.infoShift) : flag.getLsbD k = false ∧ flag'.getLsbD k = false :=
    ⟨hf.bit_eq_false (.inl (by omega)), hf'.bit_eq_false (.inl (by omega))⟩
  have hhigh {k : Nat} (hk : c.infoShift ≤ k) : op.getLsbD k = false ∧ op'.getLsbD k = false :=
    ⟨opcode_bit_eq_false hc hop hk, opcode_bit_eq_false hc hop' hk⟩
  constructor <;> refine BitVec.eq_of_getLsbD_eq fun k _ => ?_ <;>
    rcases Nat.lt_or_ge k c.infoShift with hk | hk
  · simpa only [hlow hk, Bool.or_false] using hbit k
  · simp only [hhigh hk]
  · simp only [hlow hk]
  · simpa only [hhigh hk, Bool.false_or] using hbit k

/-- No two rows have the same pattern. -/
theorem tableRows_patterns_nodup (hc : c.Ok) : ((tableRows c).map TableRow.pattern).Nodup := by
  rw [tableRows_patterns]
  refine List.Nodup.map_on (fun k hk k' hk' h => ?_) (messageKeys_nodup hc)
  obtain ⟨hop, hf⟩ := messageKeys_parts hc hk
  obtain ⟨hop', hf'⟩ := messageKeys_parts hc hk'
  obtain ⟨h1, h2⟩ := or_inj_of_parts hc hop hop' hf hf' h
  exact Prod.ext h1 h2

/-- The bits of word 0 that no row takes as an operand: all but `FLAG_CTS` and the info field. -/
def keyMask (c : Config.Codes) : Word := ~~~(c.flagCts ||| c.infoMask)

/-- A pattern has no bit in the operands. -/
theorem pattern_and_keyMask (hc : c.Ok) {r : TableRow} (hr : r ∈ tableRows c) :
    r.pattern &&& keyMask c = r.pattern := by
  have hmem : r.pattern ∈ (messageKeys c).map fun k => k.1 ||| k.2 := by
    rw [← tableRows_patterns]; exact List.mem_map_of_mem hr
  obtain ⟨⟨op, flag⟩, hk, heq⟩ := List.mem_map.1 hmem
  obtain ⟨hop, hf⟩ := messageKeys_parts hc hk
  rw [← heq]
  refine BitVec.eq_of_getLsbD_eq fun k hk => ?_
  have hcts := (ctsBit_bounds hc).1
  have hlow := opcode_bit_lt hc hop (k := k)
  have hhigh := hf k
  simp only [keyMask, BitVec.getLsbD_and, BitVec.getLsbD_not, BitVec.getLsbD_or, flagCts_getLsbD hc,
    infoMask_getLsbD hc]
  grind

theorem keyMask_and_not (hc : c.Ok) {x : Word}
    (hx : ∀ k, x.getLsbD k = true → k = c.ctsBit ∨ c.infoShift ≤ k ∧ k < c.infoShift + c.infoWidth) :
    keyMask c &&& ~~~x = keyMask c := by
  refine BitVec.eq_of_getLsbD_eq fun k _ => ?_
  have := hx k
  simp only [keyMask, BitVec.getLsbD_and, BitVec.getLsbD_not, BitVec.getLsbD_or, flagCts_getLsbD hc,
    infoMask_getLsbD hc]
  grind

theorem keyMask_and_requestMask (hc : c.Ok) {info free : Word} (hi : InfoOperand c info free) :
    keyMask c &&& ~~~free = keyMask c :=
  keyMask_and_not hc fun k hk => .inr (hi.inside k hk)

theorem keyMask_and_replyMask (hc : c.Ok) {info free : Word} (hi : InfoOperand c info free) :
    keyMask c &&& ~~~(c.flagCts ||| free) = keyMask c := by
  refine keyMask_and_not hc fun k hk => ?_
  rw [BitVec.getLsbD_or, flagCts_getLsbD hc, Bool.or_eq_true, decide_eq_true_eq] at hk
  exact hk.imp_right (hi.inside k)

/-- The operands of a row are `FLAG_CTS` and bits of the info field at most. -/
theorem keyMask_and_mask (hc : c.Ok) {r : TableRow} (hr : r ∈ tableRows c) :
    keyMask c &&& r.mask = keyMask c := by
  have hvlan := infoOperand_vlan hc false
  have hcount := infoOperand_count hc (info := 0#32) (by simp)
  have hindex := infoOperand_index hc (info := 0#32) (Nat.two_pow_pos _)
  have hrequest : ∀ q ∈ requestRows c, keyMask c &&& q.mask = keyMask c := by
    simp only [requestRows, requestRow, List.forall_mem_cons, keyMask_and_requestMask hc infoOperand_none,
      keyMask_and_requestMask hc hvlan, keyMask_and_requestMask hc hcount,
      keyMask_and_requestMask hc hindex, List.not_mem_nil, false_implies, implies_true, and_self]
  have hreply : ∀ q ∈ replyRows c, keyMask c &&& q.mask = keyMask c := by
    simp only [replyRows, replyRow, List.forall_mem_cons, keyMask_and_replyMask hc infoOperand_none,
      keyMask_and_replyMask hc hvlan, keyMask_and_replyMask hc hcount,
      keyMask_and_replyMask hc hindex, List.not_mem_nil, false_implies, implies_true, and_self]
  exact (List.mem_append.1 hr).elim (hrequest r) (hreply r)

/-- The pattern of the row a word 0 matches is what the word holds outside the operands. -/
theorem pattern_eq_of_matches (hc : c.Ok) {r : TableRow} (hr : r ∈ tableRows c) {w : Word}
    (hw : w &&& r.mask = r.pattern) : r.pattern = w &&& keyMask c :=
  calc r.pattern = w &&& r.mask &&& keyMask c := by rw [hw, pattern_and_keyMask hc hr]
    _ = w &&& (keyMask c &&& r.mask) := by rw [BitVec.and_assoc, BitVec.and_comm r.mask]
    _ = w &&& keyMask c := by rw [keyMask_and_mask hc hr]

/-- A word 0 matches one row at most, so the decoder finds a row the word matches (R126). -/
theorem findRow_of_matches (hc : c.Ok) {r : TableRow} (hr : r ∈ tableRows c) {w : Word}
    (hw : w &&& r.mask = r.pattern) : findRow c w = some r.row := by
  unfold findRow
  cases hf : (tableRows c).find? fun r => w &&& r.mask == r.pattern with
  | none => simpa [hw] using List.find?_eq_none.1 hf r hr
  | some q =>
    have hq := List.mem_of_find?_eq_some hf
    have hqw : w &&& q.mask = q.pattern := by simpa using List.find?_some hf
    have heq : q.pattern = r.pattern := by
      rw [pattern_eq_of_matches hc hq hqw, pattern_eq_of_matches hc hr hw]
    rw [List.inj_on_of_nodup_map (tableRows_patterns_nodup hc) hq hr heq]
    rfl

theorem decode_of_findRow {w : Word} {row : MsgRow} (h : findRow c w = some row) (ws : List Word) :
    decode c (w :: ws) = readRow c row w ws := by
  simp [decode, h]

/-- A request's word 0 selects the request's row. -/
theorem decode_request (hc : c.Ok) {row : MsgRow} {op info free : Word}
    (hw : WordZero c op info free 0#32) (hr : requestRow row op free ∈ requestRows c) (ws : List Word) :
    decode c (mk0 c op info :: ws) = readRow c row (mk0 c op info) ws :=
  decode_of_findRow (findRow_of_matches hc (List.mem_append_left _ hr) (hw.matches_request hc)) ws

/-- A reply's word 0 selects the reply's row. -/
theorem decode_reply (hc : c.Ok) {row : MsgRow} {op info free flag : Word} (cts : Bool)
    (hw : WordZero c op info free flag) (hr : replyRow c row op free flag ∈ replyRows c) (ws : List Word) :
    decode c (replyWord c op info flag cts :: ws) = readRow c row (replyWord c op info flag cts) ws :=
  decode_of_findRow (findRow_of_matches hc (List.mem_append_right _ hr) (hw.matches_reply hc cts)) ws

/-! ## The payload forms (R65, R112) -/

theorem wordBytes_wordOfBytes (b0 b1 b2 b3 : Byte) :
    wordBytes (wordOfBytes b0 b1 b2 b3) = [b0, b1, b2, b3] := by
  simp only [wordBytes, wordOfBytes, List.cons.injEq, and_true]
  refine ⟨?_, ?_, ?_, ?_⟩ <;> ext i hi <;> simp <;> grind

/-- `unpack48` reads back the address `pack48` packs (R65). -/
theorem unpack48_pack48 (a : MacAddr) : unpack48 (pack48 a).1 (pack48 a).2 = a := by
  have h1 := wordBytes_wordOfBytes a.a0 a.a1 a.a2 a.a3
  have h2 := wordBytes_wordOfBytes a.a4 a.a5 0#8 0#8
  simp [wordBytes, wordOfBytes] at h1 h2
  simp [unpack48, pack48, h1, h2]

theorem low_vector (v : BitVec 12) (hi : BitVec 16) :
    ((widenVector v).setWidth 32 ||| (hi.setWidth 32 <<< 16) : Word).extractLsb' 0 12 = v := by
  ext i hi
  simp [widenVector]
  grind

theorem high_vector (v : BitVec 12) (lo : BitVec 16) :
    (lo.setWidth 32 ||| ((widenVector v).setWidth 32 <<< 16) : Word).extractLsb' 16 12 = v := by
  ext i hi
  simp [widenVector]
  grind

theorem single_vector (v : BitVec 12) : ((widenVector v).setWidth 32 : Word).extractLsb' 0 12 = v := by
  simpa using low_vector v 0#16

/-- Two vectors stand in one word (R112, R171). -/
theorem pack16_length (vs : List (BitVec 16)) : (pack16 vs).length = halfUp vs.length := by
  induction vs using pack16.induct with
  | case1 => rfl
  | case2 a => simp [pack16, halfUp]
  | case3 a b rest ih => simp only [pack16, List.length_cons, ih, halfUp]; omega

/-- The vectors packed at the head of the words are read back (R112). -/
theorem unpackVectors_pack16 (vs : List (BitVec 12)) (rest : List Word) :
    unpackVectors vs.length (pack16 (vs.map widenVector) ++ rest) = vs := by
  induction vs using List.twoStepInduction with
  | nil => rfl
  | singleton v => simp [pack16, unpackVectors, single_vector]
  | cons_cons v v' vs ih _ => simp [pack16, unpackVectors, low_vector, high_vector, ih]

theorem readVectors_pack16 {vs : List (BitVec 12)} (h : vs.length ≤ Config.mcMax) (rest : List Word) :
    readVectors vs.length (pack16 (vs.map widenVector) ++ rest) = .ok (.setMulticastReq vs, rest) := by
  have hlen : (pack16 (vs.map widenVector)).length = halfUp vs.length := by
    rw [pack16_length, List.length_map]
  have hfit : ¬ (pack16 (vs.map widenVector) ++ rest).length < halfUp vs.length := by
    simp [hlen]
  rw [readVectors, if_neg (Nat.not_lt.2 h), if_neg hfit, unpackVectors_pack16, List.drop_left' hlen]

/-- A payload the decoder ignores is skipped (R125). -/
theorem skipWords_append (row : MsgRow) {n : Nat} (i : Instr) {ws : List Word} (h : ws.length = n)
    (rest : List Word) : skipWords row n i (ws ++ rest) = .ok (i, rest) := by
  have hfit : ¬ (ws ++ rest).length < n := by simp [h]
  rw [skipWords, if_neg hfit, List.drop_left' h]

/-! ## The round trip of every message row -/

theorem opReset_mem (c : Config.Codes) : c.opReset ∈ c.opcodes := by simp [Config.Codes.opcodes]
theorem opSetMacAddr_mem (c : Config.Codes) : c.opSetMacAddr ∈ c.opcodes := by
  simp [Config.Codes.opcodes]
theorem opSetMulticast_mem (c : Config.Codes) : c.opSetMulticast ∈ c.opcodes := by
  simp [Config.Codes.opcodes]
theorem opSetVlan_mem (c : Config.Codes) : c.opSetVlan ∈ c.opcodes := by simp [Config.Codes.opcodes]
theorem opSetMacvlan_mem (c : Config.Codes) : c.opSetMacvlan ∈ c.opcodes := by
  simp [Config.Codes.opcodes]
theorem opApiNegotiate_mem (c : Config.Codes) : c.opApiNegotiate ∈ c.opcodes := by
  simp [Config.Codes.opcodes]
theorem opGetReta_mem (c : Config.Codes) : c.opGetReta ∈ c.opcodes := by simp [Config.Codes.opcodes]
theorem opGetRssKey_mem (c : Config.Codes) : c.opGetRssKey ∈ c.opcodes := by
  simp [Config.Codes.opcodes]

/-- The word 0 of a message without an operand. -/
theorem wordZero_none {op flag : Word} (hop : op ∈ c.opcodes) (hf : IsVerdict c flag) :
    WordZero c op 0#32 0#32 flag := ⟨hop, infoOperand_none, hf⟩

theorem wordZero_vlan (hc : c.Ok) (b : Bool) {flag : Word} (hf : IsVerdict c flag) :
    WordZero c c.opSetVlan (ofBit b) (vlanInfo c) flag :=
  ⟨opSetVlan_mem c, infoOperand_vlan hc b, hf⟩

theorem wordZero_count (hc : c.Ok) {n flag : Word} (hn : n.toNat < 2 ^ 5) (hf : IsVerdict c flag) :
    WordZero c c.opSetMulticast n (countInfo c) flag :=
  ⟨opSetMulticast_mem c, infoOperand_count hc hn, hf⟩

theorem wordZero_index (hc : c.Ok) {index flag : Word} (hi : index.toNat < 2 ^ c.infoWidth)
    (hf : IsVerdict c flag) : WordZero c c.opSetMacvlan index c.infoMask flag :=
  ⟨opSetMacvlan_mem c, infoOperand_index hc hi, hf⟩

theorem vlanOnBit_setVlan (hc : c.Ok) (b : Bool) {flag : Word} (hf : IsVerdict c flag) (cts : Bool) :
    vlanOnBit c (replyWord c c.opSetVlan (ofBit b) flag cts) = b := by
  rw [(wordZero_vlan hc b hf).vlanOnBit_eq hc, ofBit_getLsbD]
  simp

theorem extractLsb'_setWidth_vlanId (v : BitVec 12) : (v.setWidth 32 : Word).extractLsb' 0 12 = v := by
  ext k hk
  simp
  grind

/-- The decoder reads back a request (R106, R108, R110, R112, R114, R116, R118, R120). -/
theorem decode_encode_request {p : Config.Params} (hc : p.codes.Ok) {i : Instr}
    (hg : i.group = .request) (hwf : i.wellFormed p = true) (rest : List Word) :
    decode p.codes (encode p.codes i ++ rest) = .ok (i, rest) := by
  cases i <;> simp only [Instr.group, reduceCtorEq] at hg
  case resetReq =>
    have hw := wordZero_none (opReset_mem p.codes) isVerdict_zero
    simp [encode, decode_request hc hw (row := .resetReq) (by simp [requestRows]), readRow]
  case setMacReq addr =>
    have hw := wordZero_none (opSetMacAddr_mem p.codes) isVerdict_zero
    simp [encode, decode_request hc hw (row := .setMacReq) (by simp [requestRows]), readRow,
      unpack48_pack48]
  case setVlanReq vlanId vlanOn =>
    have hw := wordZero_vlan hc vlanOn isVerdict_zero
    have hon := vlanOnBit_setVlan hc vlanOn isVerdict_zero false
    rw [replyWord_noFlag] at hon
    simp [encode, decode_request hc hw (row := .setVlanReq) (by simp [requestRows]), readRow, hon,
      extractLsb'_setWidth_vlanId]
  case setMulticastReq vectors =>
    have hlen : vectors.length ≤ Config.mcMax := by simpa [Instr.wellFormed] using hwf
    have hlt : vectors.length < 2 ^ 5 := lt_of_le_of_lt hlen (by decide)
    have hn : (BitVec.ofNat 32 vectors.length).toNat = vectors.length := by simp; omega
    have hw := wordZero_count hc (n := BitVec.ofNat 32 vectors.length) (by omega) isVerdict_zero
    have hcount := congrArg BitVec.toNat (hw.countField_eq hc false)
    rw [replyWord_noFlag, BitVec.toNat_setWidth, hn, Nat.mod_eq_of_lt (by omega)] at hcount
    rw [encode, List.cons_append, decode_request hc hw (row := .setMulticastReq) (by simp [requestRows]),
      readRow, hcount, readVectors_pack16 hlen]
  case setMacvlanReq index addr =>
    obtain ⟨hindex, haddr⟩ : index.toNat < 2 ^ p.codes.infoWidth ∧
        (index ≠ 0#32 ∨ addr = MacAddr.zero) := by
      simpa [Instr.wellFormed, indexOk] using hwf
    have hw := wordZero_index hc hindex isVerdict_zero
    have hinfo := hw.infoField_eq hc false
    rw [replyWord_noFlag] at hinfo
    have hread (w1 w2 : Word) := decode_request hc hw (row := .setMacvlanReq) (by simp [requestRows])
      (w1 :: w2 :: rest)
    by_cases h0 : index = 0#32
    · subst h0
      simp [encode, hread, readRow, hinfo, haddr.resolve_left (by simp)]
    · simp [encode, h0, hread, readRow, hinfo, unpack48_pack48]
  case apiNegotiateReq version =>
    have hw := wordZero_none (opApiNegotiate_mem p.codes) isVerdict_zero
    simp [encode, decode_request hc hw (row := .apiNegotiateReq) (by simp [requestRows]), readRow]
  case getRetaReq =>
    have hw := wordZero_none (opGetReta_mem p.codes) isVerdict_zero
    simp [encode, decode_request hc hw (row := .getRetaReq) (by simp [requestRows]), readRow]
  case getRssKeyReq =>
    have hw := wordZero_none (opGetRssKey_mem p.codes) isVerdict_zero
    simp [encode, decode_request hc hw (row := .getRssKeyReq) (by simp [requestRows]), readRow]

/-- A reply whose payload the decoder skips: what is left is how its row reads word 0. -/
theorem decode_skipped (hc : c.Ok) {row : MsgRow} {op info free flag : Word} {cts : Bool} {n : Nat}
    {i : Instr} {payload rest : List Word} (hw : WordZero c op info free flag)
    (hr : replyRow c row op free flag ∈ replyRows c) (hlen : payload.length = n)
    (hread : readRow c row (replyWord c op info flag cts) (payload ++ rest)
      = skipWords row n i (payload ++ rest)) :
    decode c (replyWord c op info flag cts :: payload ++ rest) = .ok (i, rest) := by
  rw [List.cons_append, decode_reply hc cts hw hr, hread, skipWords_append row i hlen]

/-- The decoder reads back a reply (R107, R109, R111, R113, R115, R117, R119, R121). -/
theorem decode_encode_reply {p : Config.Params} (hc : p.codes.Ok) {i : Instr}
    (hg : i.group = .reply) (hwf : i.wellFormed p = true) (rest : List Word) :
    decode p.codes (encode p.codes i ++ rest) = .ok (i, rest) := by
  have hack := isVerdict_ack hc
  have hnack := isVerdict_nack hc
  have hsuccess := isVerdict_success hc
  have hfailure := isVerdict_failure hc
  cases i <;> simp only [Instr.group, reduceCtorEq] at hg
  case resetAck cts perm mcType =>
    have hw := wordZero_none (opReset_mem p.codes) hack
    simp [encode, decode_reply hc cts hw (row := .resetAck) (by simp [replyRows]), readRow,
      hw.ctsBit_eq hc, unpack48_pack48]
  case setMacAck cts =>
    have hw := wordZero_none (opSetMacAddr_mem p.codes) hack
    exact decode_skipped hc hw (row := .setMacAck) (n := 2) (by simp [replyRows]) rfl
      (by rw [readRow, hw.ctsBit_eq hc])
  case setMacNack cts =>
    have hw := wordZero_none (opSetMacAddr_mem p.codes) hnack
    exact decode_skipped hc hw (row := .setMacNack) (n := 2) (by simp [replyRows]) rfl
      (by rw [readRow, hw.ctsBit_eq hc])
  case apiNegotiateAck cts version =>
    have hw := wordZero_none (opApiNegotiate_mem p.codes) hack
    simp [encode, decode_reply hc cts hw (row := .apiNegotiateAck) (by simp [replyRows]), readRow,
      hw.ctsBit_eq hc]
  case apiNegotiateNack cts =>
    have hw := wordZero_none (opApiNegotiate_mem p.codes) hnack
    exact decode_skipped hc hw (row := .apiNegotiateNack) (n := 2) (by simp [replyRows]) rfl
      (by rw [readRow, hw.ctsBit_eq hc])
  case setMacvlanAck cts index =>
    have hw := wordZero_index hc (by simpa [Instr.wellFormed, indexOk] using hwf) hack
    exact decode_skipped hc hw (row := .setMacvlanAck) (n := 2) (by simp [replyRows]) rfl
      (by rw [readRow, hw.ctsBit_eq hc, hw.infoField_eq hc])
  case setMacvlanNack cts index =>
    have hw := wordZero_index hc (by simpa [Instr.wellFormed, indexOk] using hwf) hnack
    exact decode_skipped hc hw (row := .setMacvlanNack) (n := 2) (by simp [replyRows]) rfl
      (by rw [readRow, hw.ctsBit_eq hc, hw.infoField_eq hc])
  case getRetaSuccess cts payload =>
    have hlen : payload.length = Config.retaWords := by simpa [Instr.wellFormed] using hwf
    have hw := wordZero_none (opGetReta_mem p.codes) hsuccess
    exact decode_skipped hc hw (row := .getRetaSuccess) (by simp [replyRows]) hlen
      (by rw [readRow, hw.ctsBit_eq hc, List.take_left' hlen])
  case getRetaFailure cts =>
    have hw := wordZero_none (opGetReta_mem p.codes) hfailure
    exact decode_skipped hc hw (row := .getRetaFailure) (by simp [replyRows]) List.length_replicate
      (by rw [readRow, hw.ctsBit_eq hc])
  case getRssKeySuccess cts payload =>
    have hlen : payload.length = Config.rssKeyWords := by simpa [Instr.wellFormed] using hwf
    have hw := wordZero_none (opGetRssKey_mem p.codes) hsuccess
    exact decode_skipped hc hw (row := .getRssKeySuccess) (by simp [replyRows]) hlen
      (by rw [readRow, hw.ctsBit_eq hc, List.take_left' hlen])
  case getRssKeyFailure cts =>
    have hw := wordZero_none (opGetRssKey_mem p.codes) hfailure
    exact decode_skipped hc hw (row := .getRssKeyFailure) (by simp [replyRows]) List.length_replicate
      (by rw [readRow, hw.ctsBit_eq hc])
  case setVlanAck cts vlanOn =>
    have hw := wordZero_vlan hc vlanOn hack
    exact decode_skipped hc hw (row := .setVlanAck) (n := 1) (by simp [replyRows]) rfl
      (by rw [readRow, hw.ctsBit_eq hc, vlanOnBit_setVlan hc vlanOn hack])
  case setVlanNack cts vlanOn =>
    have hw := wordZero_vlan hc vlanOn hnack
    exact decode_skipped hc hw (row := .setVlanNack) (n := 1) (by simp [replyRows]) rfl
      (by rw [readRow, hw.ctsBit_eq hc, vlanOnBit_setVlan hc vlanOn hnack])
  case setMulticastAck cts count =>
    have hw := wordZero_count hc (n := count.setWidth 32) (by simp; omega) hack
    simp [encode, decode_reply hc cts hw (row := .setMulticastAck) (by simp [replyRows]), readRow,
      hw.ctsBit_eq hc, hw.countField_eq hc]
  case setMulticastNack cts count =>
    have hw := wordZero_count hc (n := count.setWidth 32) (by simp; omega) hnack
    simp [encode, decode_reply hc cts hw (row := .setMulticastNack) (by simp [replyRows]), readRow,
      hw.ctsBit_eq hc, hw.countField_eq hc]

/-- Settles O1: a request and a reply are each read back from the row their word 0 selects. -/
theorem decodeInvertsEncode : Obligations.DecodeInvertsEncode := by
  intro p i rest hc hg hwf
  cases h : i.group with
  | request => exact decode_encode_request hc h hwf rest
  | reply => exact decode_encode_reply hc h hwf rest
  | command => exact absurd h hg

end Sys2Proof.Machine
end

section
/-!
The state's own rules over one step: what a move of the PF or the device leaves alone, what the block's
steps can do to the handle registers and the sticky marks (at most one planned update, and otherwise
nothing but `H.removed`), and the state after handle construction.
-/

namespace Sys2Proof.Machine

open Sys2Proof

/-! ## The block's own part of the state (R20, R36, R39) -/

/-- The states agree on what only the block and the Host write, and on the schedule. -/
structure SameBlock (s t : State) : Prop where
  h : t.h = s.h
  seq : t.seq = s.seq
  msg : t.msg = s.msg
  hostBuf : t.hostBuf = s.hostBuf
  result : t.result = s.result
  diag : t.diag = s.diag
  refusalMark : t.refusalMark = s.refusalMark
  cfg : t.cfg = s.cfg
  sched : t.sched = s.sched

/-- A PF step writes the device and what the PF has learned (R80). -/
theorem pfApply_sameBlock (p : PfStep) (s : State) : SameBlock s (pfApply p s) := by
  cases p <;> exact ⟨rfl, rfl, rfl, rfl, rfl, rfl, rfl, rfl, rfl⟩

theorem pfMove_sameBlock (p : PfStep) (s : State) : SameBlock s (pfMove p s) := by
  unfold pfMove
  split
  · exact pfApply_sameBlock p s
  · exact ⟨rfl, rfl, rfl, rfl, rfl, rfl, rfl, rfl, rfl⟩

/-- A step of the device environment writes the device, the queue of posted writes and the draws (R79). -/
theorem devMove_sameBlock (d : DevStep) (s : State) : SameBlock s (devMove d s) := by
  cases d with
  | drain =>
    exact ⟨drainOne_h s, drainOne_seq s, drainOne_msg s, drainOne_hostBuf s, drainOne_result s,
      drainOne_diag s, drainOne_refusalMark s, drainOne_cfg s, drainOne_sched s⟩
  | remove => exact ⟨rfl, rfl, rfl, rfl, rfl, rfl, rfl, rfl, rfl⟩

/-- A PF step that is not enabled is skipped (assumption 20). -/
theorem pfMove_disabled {p : PfStep} {s : State} (h : pfEnabled s.cfg p s.dev = false) :
    pfMove p s = s := by simp [pfMove, h]

/-- A drain of an empty queue is skipped (assumption 20). -/
theorem devMove_drain_nil {s : State} (h : s.wbuf = []) : devMove .drain s = s := by
  simp [devMove, drainOne, h]

theorem step_scheduled_pf {s : State} {p : PfStep} {rest : List Move} (h : s.sched = .pf p :: rest) :
    step s = .next (pfMove p { s with sched := rest }) := by simp [step, nextMove, h]

theorem step_scheduled_dev {s : State} {d : DevStep} {rest : List Move}
    (h : s.sched = .dev d :: rest) : step s = .next (devMove d { s with sched := rest }) := by
  simp [step, nextMove, h]

/-- Settles O50: neither agent's move writes the block's part of the state. -/
theorem otherAgentsLeaveTheBlock : Obligations.OtherAgentsLeaveTheBlock := by
  rintro s _ rest hs (⟨p, rfl⟩ | ⟨d, rfl⟩)
  · obtain ⟨hh, hseq, hmsg, hbuf, hres, hdiag, hmark, hcfg, hsched⟩ :=
      pfMove_sameBlock p { s with sched := rest }
    refine ⟨_, step_scheduled_pf hs, hh, hseq, hmsg, hbuf, hres, hdiag, hmark, hcfg, hsched, ?_, ?_⟩
    · rintro _ ⟨⟩ he
      exact pfMove_disabled he
    · rintro ⟨⟩
  · obtain ⟨hh, hseq, hmsg, hbuf, hres, hdiag, hmark, hcfg, hsched⟩ :=
      devMove_sameBlock d { s with sched := rest }
    refine ⟨_, step_scheduled_dev hs, hh, hseq, hmsg, hbuf, hres, hdiag, hmark, hcfg, hsched, ?_, ?_⟩
    · rintro _ ⟨⟩
    · rintro ⟨⟩ hw
      exact devMove_drain_nil hw

/-! ## Quiet changes: no handle register but `H.removed` is written -/

/-- From `s` to `t` no handle register is written but `H.removed`, which stays set like every sticky mark
(R33, R50, R260), and the parameters and the number of queue pairs stay (R34, R51). -/
structure Quiet (s t : State) : Prop where
  h : t.h = { s.h with removed := t.h.removed }
  removed : s.h.removed = true → t.h.removed = true
  devRemoved : s.dev.removed = true → t.dev.removed = true
  refusalMark : s.refusalMark = true → t.refusalMark = true
  cfg : t.cfg = s.cfg
  queues : t.dev.queues.length = s.dev.queues.length

/-- A change of other parts of the state than the handle, the device, the mark and the parameters. -/
theorem Quiet.of_eq {s t : State} (hh : t.h = s.h) (hd : t.dev = s.dev)
    (hm : t.refusalMark = s.refusalMark) (hc : t.cfg = s.cfg) : Quiet s t where
  h := by rw [hh]
  removed := by rw [hh]; exact id
  devRemoved := by rw [hd]; exact id
  refusalMark := by rw [hm]; exact id
  cfg := hc
  queues := by rw [hd]

@[refl] theorem Quiet.refl (s : State) : Quiet s s := .of_eq rfl rfl rfl rfl

@[trans] theorem Quiet.trans {s t u : State} (h₁ : Quiet s t) (h₂ : Quiet t u) : Quiet s u where
  h := by rw [h₂.h, h₁.h]
  removed := h₂.removed ∘ h₁.removed
  devRemoved := h₂.devRemoved ∘ h₁.devRemoved
  refusalMark := h₂.refusalMark ∘ h₁.refusalMark
  cfg := h₂.cfg.trans h₁.cfg
  queues := h₂.queues.trans h₁.queues

/-- A change of the device that leaves the block's own part of the state alone. -/
theorem Quiet.of_sameBlock {s t : State} (h : SameBlock s t)
    (hr : s.dev.removed = true → t.dev.removed = true)
    (hq : t.dev.queues.length = s.dev.queues.length) : Quiet s t where
  h := by rw [h.h]
  removed := by rw [h.h]; exact id
  devRemoved := hr
  refusalMark := by rw [h.refusalMark]; exact id
  cfg := h.cfg
  queues := hq

section Sequencer

variable {s t : State}

theorem Quiet.setFrame (h : Quiet s t) (f : Frame) : Quiet s (t.setFrame f) :=
  h.trans (.of_eq rfl rfl rfl rfl)

theorem Quiet.goto (h : Quiet s t) (f : Frame) (p : Point) : Quiet s (t.goto f p) := h.setFrame _

theorem Quiet.plan (h : Quiet s t) (ps : List Prim) (f : Frame) : Quiet s (plan ps f t) :=
  h.setFrame _

end Sequencer

theorem quiet_accept (f : Frame) (s : State) : Quiet s (accept f s) := .of_eq rfl rfl rfl rfl

theorem quiet_finish (r : Result) (s : State) : Quiet s (finish r s) := .of_eq rfl rfl rfl rfl

theorem quiet_refuse (s : State) : Quiet s (refuse s) where
  h := rfl
  removed := id
  devRemoved := id
  refusalMark := fun _ => rfl
  cfg := rfl
  queues := rfl

theorem quiet_storeWord (c : Instr) (i : Nat) (w : Word) (s : State) : Quiet s (storeWord c i w s) :=
  .of_eq (by simp) (by simp) (by simp) (by simp)

theorem quiet_readPermAddr (s : State) : Quiet s (readPermAddr s).2 :=
  .of_eq (by simp) (by simp) (by simp) (by simp)

theorem quiet_regRead (r : Reg) (s : State) : Quiet s (regRead r s).2 where
  h := regRead_h r s
  removed := regRead_sticky
  devRemoved := by simp
  refusalMark := by simp
  cfg := by simp
  queues := by simp

theorem quiet_flush (s : State) : Quiet s (flush s) := quiet_regRead .status s

theorem quiet_readTo (f : Frame) (r : Reg) (p : Point) (s : State) : Quiet s (readTo f r p s) :=
  (quiet_regRead r s).setFrame _

theorem quiet_regWrite (r : Reg) (v : Word) (s : State) : Quiet s (regWrite r v s) :=
  .of_eq (by simp) (by simp) (by simp) (by simp)

theorem quiet_delay (d : Config.DelayName) (s : State) : Quiet s (delay d s) := .refl s

@[simp] theorem pfApply_removed (p : PfStep) (s : State) :
    (pfApply p s).dev.removed = s.dev.removed := by cases p <;> rfl

@[simp] theorem pfApply_queues (p : PfStep) (s : State) : (pfApply p s).dev.queues = s.dev.queues := by
  cases p <;> rfl

@[simp] theorem drainOne_removed (s : State) : (drainOne s).dev.removed = s.dev.removed := by
  unfold drainOne; split <;> simp

/-- The PF removes no device and no queue (R80). -/
theorem quiet_pfMove (p : PfStep) (s : State) : Quiet s (pfMove p s) := by
  unfold pfMove
  split
  · exact .of_sameBlock (pfApply_sameBlock p s) (by simp) (by simp)
  · rfl

/-- The device environment makes no device present (R50, R79). -/
theorem quiet_devMove (d : DevStep) (s : State) : Quiet s (devMove d s) := by
  cases d with
  | drain => exact .of_sameBlock (devMove_sameBlock .drain s) (by simp [devMove]) (by simp [devMove])
  | remove => exact .of_sameBlock (devMove_sameBlock .remove s) (fun _ => rfl) rfl

theorem quiet_hostReceive (s : State) : Quiet s (hostReceive s) := .of_eq rfl rfl rfl rfl

/-! ## The transport is quiet (R172) -/

/-- A request is built by writes of `MSG` alone (R36, R102). -/
theorem msgWrites_isMsg {r : Instr} {ws : List Word} {p : Prim} (hp : p ∈ msgWrites r ws) :
    ∃ i w, p = .msg i w := by
  have hfrom : ∀ (vs : List Word) (k : Nat), p ∈ writesFrom k vs → ∃ i w, p = .msg i w := by
    intro vs
    induction vs with
    | nil => intro k h; cases h
    | cons v vs ih =>
      intro k h
      rcases List.mem_cons.1 h with rfl | h
      · exact ⟨k, v, rfl⟩
      · exact ih _ h
  unfold msgWrites at hp
  split at hp
  · rcases List.mem_append.1 hp with hp | hp
    · exact hfrom _ _ hp
    · exact hfrom _ _ hp
  · exact hfrom _ _ hp

/-- The encoder writes the staging buffer and its own frame (R102). -/
theorem quiet_stageRequest (r : Instr) (f : Frame) (s : State) : Quiet s (stageRequest r f s) := by
  simp only [stageRequest]
  cases hps : msgWrites r (encode s.cfg.codes r) with
  | nil => exact (Quiet.refl s).plan _ _
  | cons p ps =>
    obtain ⟨i, w, rfl⟩ := msgWrites_isMsg (hps ▸ List.mem_cons_self)
    exact .of_eq rfl rfl rfl rfl

section Contracts

variable {s : State} (f : Frame) (use : Use)

theorem quiet_transportRaise (e : ErrorKind) (s : State) : Quiet s (transportRaise f use e s) :=
  (Quiet.refl s).plan _ _

theorem quiet_startPoll (first : Point) (s : State) : Quiet s (startPoll f first s) :=
  (Quiet.refl s).setFrame _

theorem quiet_removalTest {goOn : State → State} (h : Quiet s (goOn s)) :
    Quiet s (removalTest f use goOn s) := by
  unfold removalTest
  split
  · exact quiet_transportRaise _ _ _ _
  · exact h

theorem quiet_pollTests (awaited : Bool) {onSuccess : State → State} (again : Point)
    (h : Quiet s (onSuccess s)) : Quiet s (pollTests f use awaited onSuccess again s) := by
  obtain ⟨e, _, heq⟩ | ⟨_, _, _, heq⟩ | ⟨_, heq⟩ | ⟨k, _, heq⟩ :=
    pollTests_cases f use awaited onSuccess again s <;> rw [heq]
  · exact quiet_transportRaise _ _ _ _
  · exact h
  · exact (Quiet.refl s).goto _ _
  · exact (Quiet.refl s).setFrame _

theorem quiet_afterLock (s : State) : Quiet s (afterLock f use s) := by
  cases use <;> exact (Quiet.refl s).setFrame _

theorem quiet_afterPost (s : State) : Quiet s (afterPost f s) := by
  unfold afterPost; split <;> exact (Quiet.refl s).setFrame _

theorem quiet_afterRead (s : State) : Quiet s (afterRead f s) := by
  unfold afterRead; split <;> exact (Quiet.refl s).setFrame _

end Contracts

/-- No step of the transport writes a handle register but `H.removed`: a failed contract only plans the
clean-up (R172). -/
theorem quiet_transportStep {f : Frame} {s t : State} (h : transportStep f s = .next t) : Quiet s t := by
  have hgoto (p : Point) : Quiet s (s.goto f p) := (Quiet.refl s).goto f p
  unfold transportStep at h
  split at h
  · split at h <;> cases h
    exact quiet_stageRequest _ _ _
  all_goals cases h
  · exact quiet_removalTest f .post (hgoto _)
  · exact quiet_startPoll _ _ _
  · exact (quiet_regWrite _ _ _).goto _ _
  · exact quiet_readTo _ _ _ _
  · exact quiet_pollTests _ _ _ _ (quiet_afterLock _ _ _)
  · exact (quiet_delay _ _).goto _ _
  · exact (quiet_regWrite _ _ _).setFrame _
  · exact (quiet_regWrite _ _ _).goto _ _
  · exact (quiet_flush _).goto _ _
  · exact quiet_removalTest _ _ (quiet_afterPost _ _)
  · exact quiet_removalTest f .read (hgoto _)
  · exact quiet_startPoll _ _ _
  · exact quiet_readTo _ _ _ _
  · exact quiet_pollTests _ _ _ _ (hgoto _)
  · exact (quiet_delay _ _).goto _ _
  · exact quiet_readTo _ _ _ _
  · exact (quiet_storeWord _ _ _ _).goto _ _
  · exact quiet_removalTest f .read ((Quiet.refl s).setFrame _)
  · exact (quiet_regWrite _ _ _).goto _ _
  · exact (quiet_flush _).goto _ _
  · exact quiet_removalTest _ _ (quiet_afterRead _ _)

/-! ## The decoders are quiet: they plan their register writes (assumption 6) -/

section Decoders

variable (f : Frame) (ws : List Word) (s : State)

theorem quiet_decodeReset : Quiet s (decodeReset f ws s) := by
  unfold decodeReset; split <;> exact (Quiet.refl s).plan _ _

theorem quiet_decodeSetMac (addr : MacAddr) : Quiet s (decodeSetMac addr f ws s) := by
  unfold decodeSetMac; split <;> exact (Quiet.refl s).plan _ _

theorem quiet_decodeUninspected : Quiet s (decodeUninspected f ws s) := (Quiet.refl s).plan _ _

theorem quiet_decodeSetMacvlan : Quiet s (decodeSetMacvlan f ws s) := by
  unfold decodeSetMacvlan; split <;> exact (Quiet.refl s).plan _ _

theorem quiet_decodeGetReta : Quiet s (decodeGetReta f ws s) := by
  unfold decodeGetReta; split <;> exact (Quiet.refl s).plan _ _

theorem quiet_decodeGetRssKey : Quiet s (decodeGetRssKey f ws s) := by
  unfold decodeGetRssKey; split <;> exact (Quiet.refl s).plan _ _

theorem quiet_decodeNegotiate : Quiet s (decodeNegotiate f ws s) := by
  unfold decodeNegotiate; split <;> exact (Quiet.refl s).plan _ _

end Decoders

/-- Whichever command reads a reply row, its registers are written by later steps (R124, R182). -/
theorem quiet_interpretReply {f : Frame} {ws : List Word} {s t : State}
    (h : interpretReply f ws s = .next t) : Quiet s t := by
  unfold interpretReply at h
  split at h <;> cases h
  · exact quiet_decodeReset _ _ _
  · exact quiet_decodeSetMac _ _ _ _
  · exact quiet_decodeUninspected _ _ _
  · exact quiet_decodeUninspected _ _ _
  · exact quiet_decodeSetMacvlan _ _ _
  · exact quiet_decodeGetReta _ _ _
  · exact quiet_decodeGetRssKey _ _ _
  · exact quiet_decodeNegotiate _ _ _

/-- An operation's own step is its decoder's or the transport's (R146). -/
theorem quiet_operation {interpret : Frame → List Word → State → State} {f : Frame} {s t : State}
    (hi : Quiet s (interpret f s.msg s)) (h : operation interpret f s = .next t) : Quiet s t := by
  unfold operation at h
  split at h
  · cases h; exact hi
  · exact quiet_transportStep h

theorem quiet_requestStep {r : Instr} {s t : State} (h : requestStep r s = .next t) : Quiet s t := by
  unfold requestStep at h
  split at h
  · cases h; exact quiet_refuse s
  · split at h <;> cases h
    · exact quiet_stageRequest _ _ _
    · exact quiet_refuse s

theorem quiet_replyStep {r : Instr} {s t : State} (h : replyStep r s = .next t) : Quiet s t := by
  unfold replyStep at h
  split at h
  · cases h; exact quiet_refuse s
  · split at h
    · exact quiet_interpretReply h
    · cases h; exact quiet_refuse s

/-! ## What one step can do: a quiet change, and at most one update (R12, R35) -/

/-- From `s` to `t` nothing but a quiet change happens, or one update of the running command after it: a
pending one, or one that the command may make. -/
inductive UpdatesOnce (s : State) : State → Prop
  | quiet {t : State} (h : Quiet s t) : UpdatesOnce s t
  | update {f : Frame} {p : Prim} {u : State} (hs : s.seq = .busy f)
      (hp : p ∈ f.todo ∨ primOk f.cmd p = true) (hu : Quiet s u) : UpdatesOnce s (runPrim p u)

/-- Performing a list of updates makes the first of them (R35). -/
theorem UpdatesOnce.perform {s u : State} {f : Frame} {p : Prim} (hs : s.seq = .busy f)
    (hp : p ∈ f.todo ∨ primOk f.cmd p = true) (hu : Quiet s u) (ps : List Prim) (g : Frame) :
    UpdatesOnce s (perform (p :: ps) g u) := .update hs hp (hu.plan ps g)

theorem updatesOnce_runNext {s : State} {f : Frame} (hs : s.seq = .busy f) (ht : f.todo ≠ []) :
    UpdatesOnce s (runNext s) := by
  cases hps : f.todo with
  | nil => exact absurd hps ht
  | cons p ps =>
    rw [runNext_cons hs hps]
    exact .update hs (.inl (hps ▸ List.mem_cons_self)) ((Quiet.refl s).plan _ _)

/-- Every command is read alike: if its admission is quiet and each of its own steps makes one update at
most, so does the command (R35, R83). -/
theorem updatesOnce_command {i : Instr} {offer : State → State} {body : Frame → State → Outcome}
    {s t : State} (h : command i offer body s = .next t) (ho : Quiet s (offer s))
    (hb : ∀ f, s.seq = .busy f → f.cmd = i → body f s = .next t → UpdatesOnce s t) :
    UpdatesOnce s t := by
  obtain ⟨_, ho'⟩ | ⟨f, hs, _, ht, hn⟩ | ⟨f, hs, hc, _, hn⟩ | ⟨f, _, _, hn⟩ := command_cases h
  · cases ho'; exact .quiet ho
  · cases hn; exact updatesOnce_runNext hs ht
  · exact hb f hs hc hn.symm
  · cases hn; exact .quiet (quiet_refuse s)

section Bodies

variable {f : Frame} {s t : State}

theorem updatesOnce_stopStep (hs : s.seq = .busy f) (hc : f.cmd = .stop)
    (h : stopStep f s = .next t) : UpdatesOnce s t := by
  unfold stopStep at h
  split at h <;> cases h
  · exact .quiet (quiet_readTo _ _ _ _)
  · exact .quiet ((quiet_regWrite _ _ _).goto _ _)
  · exact .quiet (quiet_readTo _ _ _ _)
  · exact .quiet ((quiet_regWrite _ _ _).setFrame _)
  · exact .quiet ((quiet_regWrite _ _ _).goto _ _)
  · exact .quiet ((quiet_flush _).goto _ _)
  · exact .perform hs (.inr (by rw [hc]; rfl)) (.refl s) _ _

theorem quiet_resetTests (f : Frame) (s : State) : Quiet s (resetTests f s) := by
  unfold resetTests resetFails
  repeat' split
  all_goals exact (Quiet.refl s).setFrame _

theorem updatesOnce_resetStep (hs : s.seq = .busy f) (hc : f.cmd = .reset)
    (h : resetStep f s = .next t) : UpdatesOnce s t := by
  have hp {p : Prim} (hp : primOk .reset p = true) : p ∈ f.todo ∨ primOk f.cmd p = true :=
    .inr (by rwa [hc])
  unfold resetStep at h
  split at h
  case h_11 => exact .quiet (quiet_transportStep h)
  all_goals cases h
  · exact .quiet ((quiet_regWrite _ _ _).goto _ _)
  · exact .quiet ((quiet_flush _).goto _ _)
  · exact .quiet ((quiet_delay _ _).setFrame _)
  · exact .quiet (quiet_readTo _ _ _ _)
  · exact .quiet (quiet_resetTests _ _)
  · exact .quiet ((quiet_delay _ _).goto _ _)
  · exact .perform hs (hp rfl) (.refl s) _ _
  · exact .perform hs (hp rfl) (.refl s) _ _
  · exact .quiet ((quiet_delay _ _).goto _ _)
  · exact .quiet (quiet_decodeReset _ _ _)

theorem updatesOnce_startStep (hs : s.seq = .busy f) (hc : f.cmd = .start)
    (h : startStep f s = .next t) : UpdatesOnce s t := by
  unfold startStep at h
  split at h <;> cases h
  exact .perform hs (.inr (by rw [hc]; rfl)) (.refl s) _ _

theorem updatesOnce_initStep (hs : s.seq = .busy f) (hc : f.cmd = .init)
    (h : initStep f s = .next t) : UpdatesOnce s t := by
  unfold initStep at h
  split at h <;> cases h
  exact .perform hs (.inr (by rw [hc]; rfl)) (.refl s) _ _

theorem updatesOnce_readHandleStep {field : HandleField} (hs : s.seq = .busy f)
    (h : readHandleStep field f s = .next t) : UpdatesOnce s t := by
  unfold readHandleStep at h
  split at h
  · split at h <;> cases h
    · exact .perform hs (.inr rfl) (quiet_readPermAddr s) _ _
    · exact .perform hs (.inr rfl) (.refl s) _ _
  · cases h

theorem updatesOnce_mtaVectorStep {addr : MacAddr} {filterType : Word} (hs : s.seq = .busy f)
    (hc : f.cmd = .mtaVector addr filterType) (h : mtaVectorStep addr filterType f s = .next t) :
    UpdatesOnce s t := by
  unfold mtaVectorStep at h
  split at h <;> cases h
  unfold diagnose
  split
  · exact .perform hs (.inr rfl) (.refl s) _ _
  · exact .perform hs (.inr (by rw [hc]; rfl)) (.refl s) _ _

theorem updatesOnce_updateMcStep {list : List MacAddr} (h : updateMcStep list f s = .next t) :
    UpdatesOnce s t := by
  unfold updateMcStep at h
  split at h
  · cases h; exact .quiet ((Quiet.refl s).plan _ _)
  · exact .quiet (quiet_operation (quiet_decodeUninspected _ _ _) h)

theorem updatesOnce_checkLinkStep (h : checkLinkStep f s = .next t) : UpdatesOnce s t := by
  unfold checkLinkStep at h
  split at h <;> cases h
  · exact .quiet (quiet_readTo _ _ _ _)
  · repeat' split
    all_goals exact .quiet ((Quiet.refl s).setFrame _)
  · exact .quiet (quiet_readTo _ _ _ _)
  · exact .quiet ((Quiet.refl s).plan _ _)

theorem updatesOnce_checkForRstStep (hs : s.seq = .busy f) (h : checkForRstStep f s = .next t) :
    UpdatesOnce s t := by
  unfold checkForRstStep at h
  split at h <;> cases h
  · exact .quiet (quiet_readTo _ _ _ _)
  · exact .perform hs (.inr rfl) (.refl s) _ _

end Bodies

/-! ## Admission is quiet (R170, R181, R212) -/

theorem quiet_admitReady (f : Frame) (s : State) : Quiet s (admitReady f s) := by
  unfold admitReady
  split
  · exact quiet_accept f s
  · exact quiet_refuse s

theorem quiet_admitQuery (f : Frame) (s : State) : Quiet s (admitQuery f s) := by
  unfold admitQuery
  split
  · exact quiet_admitReady f s
  · exact quiet_finish _ s

/-- A command with an operand or control condition is accepted or refused (R147, R212, R260). -/
theorem quiet_acceptIf (c : Prop) [Decidable c] {s t : State} (ht : Quiet s t) :
    Quiet s (if c then t else refuse s) := by
  split
  · exact ht
  · exact quiet_refuse s

/-! ## The step -/

/-- One execution of an instruction makes one update at most. -/
theorem updatesOnce_exec {i : Instr} {s t : State} (h : exec i s = .next t) : UpdatesOnce s t := by
  cases i with
  | resetReq | setMacReq | setVlanReq | setMulticastReq | setMacvlanReq | apiNegotiateReq | getRetaReq
  | getRssKeyReq => exact .quiet (quiet_requestStep h)
  | resetAck | setMacAck | setMacNack | apiNegotiateAck | apiNegotiateNack | setMacvlanAck
  | setMacvlanNack | getRetaSuccess | getRetaFailure | getRssKeySuccess | getRssKeyFailure | setVlanAck
  | setVlanNack | setMulticastAck | setMulticastNack => exact .quiet (quiet_replyStep h)
  | stop =>
    exact updatesOnce_command h (quiet_accept _ s) (fun _ => updatesOnce_stopStep)
  | reset =>
    exact updatesOnce_command (show execReset s = _ from h) (quiet_acceptIf _ (quiet_accept _ s))
      (fun _ => updatesOnce_resetStep)
  | start =>
    exact updatesOnce_command h (quiet_accept _ s) (fun _ => updatesOnce_startStep)
  | init =>
    exact updatesOnce_command h (quiet_accept _ s) (fun _ => updatesOnce_initStep)
  | setMac addr =>
    exact updatesOnce_command h (quiet_admitReady _ s)
      (fun _ _ _ hb => .quiet (quiet_operation (quiet_decodeSetMac _ _ _ _) hb))
  | setVlan vlanId vlanOn =>
    exact updatesOnce_command h (quiet_admitReady _ s)
      (fun _ _ _ hb => .quiet (quiet_operation (quiet_decodeUninspected _ _ _) hb))
  | mtaVector addr filterType =>
    exact updatesOnce_command h (quiet_accept _ s)
      (fun _ => updatesOnce_mtaVectorStep)
  | updateMc list =>
    exact updatesOnce_command h (quiet_admitReady _ s) (fun _ _ _ => updatesOnce_updateMcStep)
  | setMacvlan index addr =>
    exact updatesOnce_command (show execSetMacvlan index addr s = _ from h)
      (quiet_acceptIf _ (quiet_admitReady _ s))
      (fun _ _ _ hb => .quiet (quiet_operation (quiet_decodeSetMacvlan _ _ _) hb))
  | getReta =>
    exact updatesOnce_command h (quiet_admitQuery _ s)
      (fun _ _ _ hb => .quiet (quiet_operation (quiet_decodeGetReta _ _ _) hb))
  | getRssKey =>
    exact updatesOnce_command h (quiet_admitQuery _ s)
      (fun _ _ _ hb => .quiet (quiet_operation (quiet_decodeGetRssKey _ _ _) hb))
  | negotiateApi version =>
    exact updatesOnce_command h (quiet_admitReady _ s)
      (fun _ _ _ hb => .quiet (quiet_operation (quiet_decodeNegotiate _ _ _) hb))
  | checkLink =>
    exact updatesOnce_command h (quiet_accept _ s) (fun _ _ _ => updatesOnce_checkLinkStep)
  | writePosted msg len mailboxId =>
    exact updatesOnce_command (show execWritePosted msg len mailboxId s = _ from h)
      (quiet_acceptIf _ (quiet_accept _ s)) (fun _ _ _ hb => .quiet (quiet_transportStep hb))
  | readPosted len mailboxId =>
    exact updatesOnce_command (show execReadPosted len mailboxId s = _ from h)
      (quiet_acceptIf _ (quiet_accept _ s)) (fun _ _ _ hb => .quiet (quiet_transportStep hb))
  | exchange reqLen rspLen =>
    exact updatesOnce_command (show execExchange reqLen rspLen s = _ from h)
      (quiet_acceptIf _ (quiet_accept _ s)) (fun _ _ _ hb => .quiet (quiet_transportStep hb))
  | checkForRst mailboxId =>
    exact updatesOnce_command (show execCheckForRst mailboxId s = _ from h)
      (quiet_acceptIf _ (quiet_accept _ s)) (fun _ hs _ => updatesOnce_checkForRstStep hs)
  | readHandle field =>
    exact updatesOnce_command h (quiet_accept _ s)
      (fun _ hs _ => updatesOnce_readHandleStep hs)

/-- Taking a move from the schedule leaves the sequencer alone. -/
theorem nextMove_seq (s : State) : (nextMove s).2.seq = s.seq := by
  unfold nextMove; split <;> rfl

theorem quiet_nextMove (s : State) : Quiet s (nextMove s).2 := by
  unfold nextMove; split <;> exact .of_eq rfl rfl rfl rfl

/-- What happens after a quiet change that leaves the sequencer alone happens from its start. -/
theorem UpdatesOnce.of_quiet {s u t : State} (hu : Quiet s u) (hseq : u.seq = s.seq)
    (h : UpdatesOnce u t) : UpdatesOnce s t := by
  cases h with
  | quiet h => exact .quiet (hu.trans h)
  | update hs hp h => exact .update (hseq ▸ hs) hp (hu.trans h)

/-- Every step makes one update of the running command at most, whoever moves (R6, R35). -/
theorem updatesOnce_step {s t : State} (h : step s = .next t) : UpdatesOnce s t := by
  refine .of_quiet (quiet_nextMove s) (nextMove_seq s) ?_
  simp only [step] at h
  generalize (nextMove s).2 = u at h ⊢
  split at h
  · split at h
    · exact updatesOnce_exec h
    · cases h; exact .quiet (.refl _)
  · split at h
    · exact updatesOnce_exec h
    · cases h; exact .quiet (quiet_refuse u)
  · cases h; exact .quiet (quiet_hostReceive u)
  · cases h; exact .quiet (quiet_pfMove _ u)
  · cases h; exact .quiet (quiet_devMove _ u)

/-! ## The handle registers and their writers (R21 to R33) -/

section PrimOk

variable {c : Instr}

theorem primOk_curAddr {a : MacAddr} (h : primOk c (.curAddr a) = true) : ∃ b, c = .setMac b := by
  cases c with
  | setMac b => exact ⟨b, rfl⟩
  | _ => cases h

theorem primOk_curFromPerm (h : primOk c .curFromPerm = true) : c = .init ∨ ∃ b, c = .setMac b := by
  cases c with
  | init => exact .inl rfl
  | setMac b => exact .inr ⟨b, rfl⟩
  | _ => cases h

theorem primOk_apiVersion {w : Word} (h : primOk c (.apiVersion w) = true) :
    c = .reset ∨ ∃ v, c = .negotiateApi v := by
  cases c with
  | reset => exact .inl rfl
  | negotiateApi v => exact .inr ⟨v, rfl⟩
  | _ => cases h

theorem primOk_rssKey {bs : List Byte} (h : primOk c (.rssKey bs) = true) : c = .getRssKey :=
  of_decide_eq_true (Bool.and_elim_left h)

theorem primOk_stopped {b : Bool} (h : primOk c (.stopped b) = true) :
    c = .stop ∨ c = .start ∨ c = .init := by
  cases b with
  | true => exact .inl (of_decide_eq_true h)
  | false =>
    change (decide (c = .start) || decide (c = .init)) = true at h
    exact .inr (by simpa using h)

theorem primOk_fsm {x : Fsm} (h : primOk c (.fsm x) = true) : c = .stop ∨ c = .reset := by
  change (decide (c = .reset) || (decide (c = .stop) && decide (x = .stopped))) = true at h
  simp only [Bool.or_eq_true, Bool.and_eq_true, decide_eq_true_eq] at h
  exact h.symm.imp_left And.left

end PrimOk

/-- Every handle register that differs between `g` and `h` has the command `c` as a writer its rule names
(R21 to R32). -/
structure WrittenBy (c : Instr) (g h : Handle) : Prop where
  permAddr : h.permAddr ≠ g.permAddr → c = .reset
  mcFilterType : h.mcFilterType ≠ g.mcFilterType → c = .reset
  macValid : h.macValid ≠ g.macValid → c = .reset
  mbxTimeout : h.mbxTimeout ≠ g.mbxTimeout → c = .reset
  curAddr : h.curAddr ≠ g.curAddr → c = .init ∨ ∃ a, c = .setMac a
  apiVersion : h.apiVersion ≠ g.apiVersion → c = .reset ∨ ∃ v, c = .negotiateApi v
  rssKey : h.rssKey ≠ g.rssKey → c = .getRssKey
  reta : h.reta ≠ g.reta → c = .getReta
  link : h.linkUp ≠ g.linkUp ∨ h.linkSpeed ≠ g.linkSpeed → c = .checkLink
  adapterStopped : h.adapterStopped ≠ g.adapterStopped → c = .stop ∨ c = .start ∨ c = .init
  fsm : h.fsm ≠ g.fsm → c = .stop ∨ c = .reset

theorem WrittenBy.refl (c : Instr) (h : Handle) : WrittenBy c h h := by
  constructor <;> simp

/-- An update that the command may make writes at most one register, and the command is a writer of it. -/
theorem runPrim_writtenBy {c : Instr} {p : Prim} (hp : primOk c p = true) (s : State) :
    WrittenBy c s.h (runPrim p s).h := by
  have same := WrittenBy.refl c s.h
  cases p with
  | msg | emit | ends => exact same
  | anyMsg => simpa [runPrim] using same
  | anyBuf | hash =>
    simp only [runPrim]
    split <;> simpa using same
  | permAddr => exact { same with permAddr := fun _ => of_decide_eq_true hp }
  | filterType => exact { same with mcFilterType := fun _ => of_decide_eq_true hp }
  | mbxTimeout => exact { same with mbxTimeout := fun _ => of_decide_eq_true hp }
  | macValid => exact { same with macValid := fun _ => of_decide_eq_true hp }
  | curAddr => exact { same with curAddr := fun _ => .inr (primOk_curAddr hp) }
  | curFromPerm =>
    simp only [runPrim, State.modHandle_h, readPermAddr_h]
    exact { same with curAddr := fun _ => primOk_curFromPerm hp }
  | apiVersion => exact { same with apiVersion := fun _ => primOk_apiVersion hp }
  | rssKey => exact { same with rssKey := fun _ => primOk_rssKey hp }
  | reta => exact { same with reta := fun _ => of_decide_eq_true hp }
  | linkUp | linkSpeed => exact { same with link := fun _ => of_decide_eq_true hp }
  | speedAny =>
    simp only [runPrim, State.modHandle_h, drawSpeed_h]
    exact { same with link := fun _ => of_decide_eq_true hp }
  | stopped => exact { same with adapterStopped := fun _ => primOk_stopped hp }
  | fsm => exact { same with fsm := fun _ => primOk_fsm hp }

/-- `H.removed` is sticky (R33). -/
theorem UpdatesOnce.removed {s t : State} (h : UpdatesOnce s t) :
    s.h.removed = true → t.h.removed = true := by
  cases h with
  | quiet h => exact h.removed
  | update _ _ hu => simpa using hu.removed

/-- Settles O54: a step makes one update at most; a pending one is the running command's own by the
premise, and every other one is the body's. -/
theorem handleRegisterWriters : Obligations.HandleRegisterWriters := by
  intro s t hok hstep
  have hu := updatesOnce_step hstep
  have hr := hu.removed
  cases hu with
  | quiet h =>
    rw [h.h] at hr ⊢
    simpa using hr
  | @update f p u hs hp hu =>
    obtain ⟨_, hall, _, _⟩ := hok f hs
    have hw := runPrim_writtenBy (hp.elim (hall p) id) u
    rw [hu.h] at hw
    exact ⟨fun h => ⟨f, hs, hw.permAddr h⟩, fun h => ⟨f, hs, hw.mcFilterType h⟩,
      fun h => ⟨f, hs, hw.macValid h⟩, fun h => ⟨f, hs, hw.mbxTimeout h⟩,
      fun h => ⟨f, hs, hw.curAddr h⟩, fun h => ⟨f, hs, hw.apiVersion h⟩,
      fun h => ⟨f, hs, hw.rssKey h⟩, fun h => ⟨f, hs, hw.reta h⟩, fun h => ⟨f, hs, hw.link h⟩,
      fun h => ⟨f, hs, hw.adapterStopped h⟩, fun h => ⟨f, hs, hw.fsm h⟩, hr⟩

/-- Settles O57: a quiet change keeps what is sticky, and no update touches it. -/
theorem stickyMarksStay : Obligations.StickyMarksStay := by
  intro s t hstep
  have hu := updatesOnce_step hstep
  refine ⟨hu.removed, ?_⟩
  cases hu with
  | quiet h => exact ⟨h.devRemoved, h.refusalMark, h.cfg, h.queues⟩
  | update _ _ h => simpa using ⟨h.devRemoved, h.refusalMark, h.cfg, h.queues⟩

/-! ## After handle construction (R52, R290) -/

/-- An idle block in `Stopped` meets the control rules: no command runs, and the timeout need not be armed
(R149, R210). -/
theorem control_of_idle_stopped {s : State} (hs : s.seq = .idle) (hf : s.h.fsm = .stopped) :
    Control s := by
  constructor <;> simp [hs, hf]

/-- The state after construction meets the invariant for every choice of parameters the spec admits. -/
theorem inv_constructed {p : Config.Params} (hp : p.Ok) : Inv (State.constructed p) where
  params := hp
  msgLength := List.length_replicate
  hostBufLength := List.length_replicate
  keyLength := List.length_replicate
  retaLength := List.length_replicate
  queuesLength := List.length_replicate
  memory := rfl
  lock := by rintro ⟨⟨⟩, _⟩
  pending := by rintro f ⟨⟩
  middle := by rintro (⟨⟨⟩⟩ | ⟨⟨⟩⟩)
  control := by
    rw [settled_idle rfl]
    exact control_of_idle_stopped rfl rfl

/-- Settles O51: construction is idle in `Stopped`, and the defaults meet the constraints. -/
theorem invariantHoldsAtReset : Obligations.InvariantHoldsAtReset :=
  ⟨fun _ hp => ⟨inv_constructed hp, rfl, rfl, rfl, rfl, rfl, rfl, rfl, rfl, rfl, rfl, rfl⟩, rfl,
    Config.defaults_ok, inv_constructed Config.defaults_ok⟩

end Sys2Proof.Machine
end

section
/-!
The packing helpers place every byte, vector and table entry (R65, R117, R178).
-/

namespace Sys2Proof.Machine

open Sys2Proof

/-! ## Chunks: a list that takes equally many entries from each word -/

section Chunks

variable {α β : Type} {g : α → List β} {k : Nat}

theorem length_flatMap_chunks (hg : ∀ a, (g a).length = k) (as : List α) :
    (as.flatMap g).length = k * as.length := by
  induction as with
  | nil => rfl
  | cons a as ih => rw [List.flatMap_cons, List.length_append, ih, hg, List.length_cons]; ring

/-- Entry `k*i + j` is entry `j` of chunk `i`. -/
theorem getElem?_flatMap_chunks (hg : ∀ a, (g a).length = k) {as : List α} {i : Nat} {a : α}
    (ha : as[i]? = some a) {j : Nat} (hj : j < k) : (as.flatMap g)[k * i + j]? = (g a)[j]? := by
  induction as generalizing i with
  | nil => cases ha
  | cons b as ih =>
    rw [List.flatMap_cons]
    cases i with
    | zero =>
      cases ha
      rw [Nat.mul_zero, Nat.zero_add, List.getElem?_append_left (by rwa [hg])]
    | succ i =>
      have hi : k * (i + 1) + j = (g b).length + (k * i + j) := by rw [hg]; ring
      rw [hi, List.getElem?_append_right (Nat.le_add_right _ _), Nat.add_sub_cancel_left]
      exact ih ha

end Chunks

theorem wordBytes_length (w : Word) : (wordBytes w).length = 4 := rfl

theorem retaEntriesOf_length (w : Word) : (retaEntriesOf w).length = 16 := by
  simp [retaEntriesOf, Config.retaPerWord]

/-- Each word gives four key bytes (R65). -/
theorem keyBytes_length (ws : List Word) : (keyBytes ws).length = 4 * ws.length :=
  length_flatMap_chunks wordBytes_length ws

theorem keyBytes_getElem? {ws : List Word} {i j : Nat} {w : Word} (hw : ws[i]? = some w) (hj : j < 4) :
    (keyBytes ws)[4 * i + j]? = some (w.extractLsb' (8 * j) 8) := by
  rw [keyBytes, getElem?_flatMap_chunks wordBytes_length hw hj]
  interval_cases j <;> rfl

theorem retaOf_getElem? {ws : List Word} {i j : Nat} {w : Word} (hw : ws[i]? = some w) (hj : j < 16) :
    (retaOf ws)[16 * i + j]? = some (w.extractLsb' (2 * j) 2) := by
  rw [retaOf, getElem?_flatMap_chunks retaEntriesOf_length hw hj]
  simp [retaEntriesOf, Config.retaPerWord, hj]

/-- Word `i` of packed vectors holds the values `2*i` and `2*i+1` (R65). -/
theorem pack16_getElem? (vs : List (BitVec 16)) (i : Nat) (hi : 2 * i < vs.length) :
    (pack16 vs)[i]? = some ((vs.getD (2 * i) 0#16).setWidth 32
      ||| ((vs.getD (2 * i + 1) 0#16).setWidth 32 <<< 16)) := by
  induction vs using pack16.induct generalizing i with
  | case1 => cases hi
  | case2 a =>
    have h0 : i = 0 := by simp at hi; omega
    subst h0
    simp [pack16]
  | case3 a b rest ih =>
    cases i with
    | zero => simp [pack16]
    | succ i =>
      have hi' : 2 * i < rest.length := by simp at hi; omega
      simpa [pack16, Nat.mul_add] using ih i hi'

/-- Four bytes put into a word stand there most significant first. -/
theorem wordOfBytes_eq_append (b0 b1 b2 b3 : Byte) : wordOfBytes b0 b1 b2 b3 = b3 ++ b2 ++ b1 ++ b0 := by
  ext i hi
  simp only [wordOfBytes, BitVec.getElem_or, BitVec.getElem_setWidth, BitVec.getElem_shiftLeft]
  grind

/-- Settles O6, helper by helper. -/
theorem packingHelpers : Obligations.PackingHelpers := by
  refine ⟨fun a => ?_, fun _ _ => rfl, unpack48_pack48, fun _ _ _ _ => keyBytes_getElem?, keyBytes_length,
    pack16_getElem?, pack16_length, fun _ _ _ _ => retaOf_getElem?,
    length_flatMap_chunks retaEntriesOf_length⟩
  have low := wordOfBytes_eq_append a.a0 a.a1 a.a2 a.a3
  have high := wordOfBytes_eq_append a.a4 a.a5 0#8 0#8
  refine Prod.ext low ?_
  calc (pack48 a).2 = wordOfBytes a.a4 a.a5 0#8 0#8 := by simp [pack48, wordOfBytes]
    _ = 0#16 ++ a.a5 ++ a.a4 := high

end Sys2Proof.Machine
end

section
/-!
The device seen from its agents: what a drained write does to each register (R62, R79), the function-level
reset (R82), a read and what it finds out (R61 to R64), `MBX` (R71), the PF's steps (R80) and the Host's
(R83).
-/

namespace Sys2Proof.Machine

open Sys2Proof

/-! ## The Host's two steps (R83) -/

theorem step_scheduled_issue {s : State} {i : Instr} {rest : List Move} (h : s.sched = .issue i :: rest) :
    step s = if issueAdmitted i { s with sched := rest } then exec i { s with sched := rest }
      else .next (refuse { s with sched := rest }) := by simp [step, nextMove, h]

theorem step_scheduled_receive {s : State} {rest : List Move} (h : s.sched = .receive :: rest) :
    step s = .next (hostReceive { s with sched := rest }) := by simp [step, nextMove, h]

/-- The Host may issue every command but EXCHANGE (R128, R129). -/
theorem hostIssuable_of_command {i : Instr} (hg : i.group = .command) (he : ∀ a b, i ≠ .exchange a b) :
    hostIssuable i = true := by
  unfold hostIssuable
  split
  · exact absurd rfl (he _ _)
  · exact decide_eq_true hg

/-- Settles O11: an issue is admitted exactly when the block is idle. -/
theorem secondCommandIsRefused : Obligations.SecondCommandIsRefused := by
  refine fun s i rest => ⟨fun hs hbusy => ?_, fun hs hidle hg he => ?_, step_scheduled_receive⟩
  · rw [step_scheduled_issue hs, if_neg (by simp [issueAdmitted, hbusy])]
    rfl
  · rw [step_scheduled_issue hs, if_pos (by simp [issueAdmitted, hidle, hostIssuable_of_command hg he])]

/-! ## `MBX` (R71) -/

/-- Settles O45: the write by definition, the read bit by bit, every field lying inside the register. -/
theorem mbxWriteSemantics : Obligations.MbxWriteSemantics := by
  refine ⟨fun _ _ _ => ⟨rfl, rfl, rfl, rfl, rfl⟩, fun s hp hd => ?_⟩
  rw [sampleReg_mbx hd]
  refine ⟨rfl, fun k => ?_⟩
  rw [mbxWord_bit]
  by_cases hk : k < 32
  · simp [hk]
  · have hne : ∀ b ∈ s.cfg.window.mbxBits, (k == b) = false := fun b hb => by
      have := hp.window.bitsInside b (List.mem_append_right _ hb)
      rw [beq_eq_false_iff_ne]
      omega
    simp only [Config.Window.mbxBits, List.forall_mem_cons] at hne
    obtain ⟨_, _, hvfu, hpfu, hpfsts, hrstip, _⟩ := hne
    simp [hk, hvfu, hpfu, hpfsts, hrstip]

/-! ## The PF's steps (R80) -/

theorem pfMove_enabled {p : PfStep} {s : State} (h : pfEnabled s.cfg p s.dev = true) :
    pfMove p s = pfApply p s := by simp [pfMove, h]

/-- Settles O49, step by step. -/
theorem pfStepsAsSpecified : Obligations.PfStepsAsSpecified := by
  refine ⟨fun p d => ⟨.rfl, .rfl, ?_, fun i x => ?_, .rfl, .rfl, fun _ => rfl, fun _ => rfl⟩,
    fun s => ⟨fun _ _ => step_scheduled_pf, ?_⟩⟩
  · simp [pfEnabled]
  · simp [pfEnabled]
  · refine ⟨fun h => pfMove_enabled h, fun h => pfMove_enabled h, fun h => pfMove_enabled ?_,
      fun h i x hi => pfMove_enabled ?_, fun h => pfMove_enabled h, fun h => pfMove_enabled h,
      fun _ => pfMove_enabled rfl, fun _ => pfMove_enabled rfl⟩
    · simp [pfEnabled, h]
    · simp [pfEnabled, h, hi]

/-! ## Posted writes (R62, R79) -/

section Map

variable {p : Config.Params}

theorem mbmem_mem_allRegs {i : Nat} (hi : i < p.mbxSize) : .mbmem i ∈ allRegs p := by
  simp [allRegs, hi]

theorem rxdctl_mem_allRegs {q : Nat} (hq : q < p.numQueues) : .rxdctl q ∈ allRegs p := by
  simp [allRegs, hq]

theorem txdctl_mem_allRegs {q : Nat} (hq : q < p.numQueues) : .txdctl q ∈ allRegs p := by
  simp [allRegs, hq]

/-- The register at the offset of a queue's receive control register (R68). -/
theorem regAt_rxdctl (h : p.Ok) {q off : Nat} (hq : p.window.offRxdctl[q]? = some off) :
    regAt p off = some (.rxdctl q) := by
  have hlt : q < p.numQueues := by
    rw [← h.window.rxdctlLength]; exact (List.getElem?_eq_some_iff.1 hq).1
  have hoff : Reg.offset p (.rxdctl q) = off := by simp [Reg.offset, hq]
  exact hoff ▸ regAt_offset h (rxdctl_mem_allRegs hlt)

/-- The register at the offset of a queue's transmit control register (R68). -/
theorem regAt_txdctl (h : p.Ok) {q off : Nat} (hq : p.window.offTxdctl[q]? = some off) :
    regAt p off = some (.txdctl q) := by
  have hlt : q < p.numQueues := by
    rw [← h.window.txdctlLength]; exact (List.getElem?_eq_some_iff.1 hq).1
  have hoff : Reg.offset p (.txdctl q) = off := by simp [Reg.offset, hq]
  exact hoff ▸ regAt_offset h (txdctl_mem_allRegs hlt)

/-- An offset outside the window's list is no register's (R47). -/
theorem regAt_outside (h : p.Ok) {off : Nat} (ho : off ∉ p.window.offsets p.mbxSize) :
    regAt p off = none :=
  regAt_none fun _ hr he => ho (he ▸ (allRegs_offsets h).subset (List.mem_map_of_mem hr))

/-- The window's offsets are those of the registers of this spec and, between them, the interrupt cause
register's (R11, R45). -/
theorem offsets_perm (h : p.Ok) :
    (p.window.offsets p.mbxSize).Perm (p.window.offIntCause :: (allRegs p).map (Reg.offset p)) := by
  have hr := map_getD_range p.window.offRxdctl
  have ht := map_getD_range p.window.offTxdctl
  rw [h.window.rxdctlLength] at hr
  rw [h.window.txdctlLength] at ht
  have hmap : (allRegs p).map (Reg.offset p)
      = [p.window.offCtrl, p.window.offStatus, p.window.offLinks] ++ ([p.window.offIntMask, p.window.offMbx]
        ++ (List.range p.mbxSize).map (fun i => p.window.offMbmem + 4 * i)
        ++ p.window.offRxdctl ++ p.window.offTxdctl) := by
    rw [← hr, ← ht]
    simp only [allRegs, List.map_append, List.map_map, List.map_cons, List.map_nil]
    rfl
  rw [hmap]
  exact List.perm_middle (l₁ := [p.window.offCtrl, p.window.offStatus, p.window.offLinks])

/-- The interrupt cause register is none of this spec's (R45, R47). -/
theorem regAt_intCause (h : p.Ok) : regAt p p.window.offIntCause = none := by
  have hn := (offsets_perm h).nodup_iff.1 h.window.offsetsNodup
  exact regAt_none fun _ hr he => (List.nodup_cons.1 hn).1 (he ▸ List.mem_map_of_mem hr)

end Map

section Drain

variable {s : State} {off : Nat} {v : Word} {rest : List (Nat × Word)}

/-- `Dev-drain` applies the oldest posted write (R79). -/
theorem devMove_drain_cons (hw : s.wbuf = (off, v) :: rest) :
    devMove .drain s = applyWrite (off, v) { s with wbuf := rest } := by
  simp [devMove, drainOne, hw]

/-- A removed device takes nothing (R62). -/
theorem drain_gone (hw : s.wbuf = (off, v) :: rest) (hd : s.dev.removed = true) :
    devMove .drain s = { s with wbuf := rest } := by
  rw [devMove_drain_cons hw]; exact applyWrite_gone (s := { s with wbuf := rest }) hd _

/-- A present device takes the write at the register its offset names (R79). -/
theorem drain_reg (hw : s.wbuf = (off, v) :: rest) (hd : s.dev.removed = false) {r : Reg}
    (hr : regAt s.cfg off = some r) : devMove .drain s = writeReg r v { s with wbuf := rest } := by
  rw [devMove_drain_cons hw]; simp [applyWrite, hd, hr]

/-- A write to an offset of no register has no effect (R47, R79). -/
theorem drain_none (hw : s.wbuf = (off, v) :: rest) (hd : s.dev.removed = false)
    (hr : regAt s.cfg off = none) : devMove .drain s = { s with wbuf := rest } := by
  rw [devMove_drain_cons hw]; simp [applyWrite, hd, hr]

/-- A write to the offset of a register is taken by that register (R68, R79). -/
theorem drain_at (hp : s.cfg.Ok) (hw : s.wbuf = (off, v) :: rest) (hd : s.dev.removed = false) (r : Reg)
    (hr : r ∈ allRegs s.cfg) (ho : off = r.offset s.cfg) :
    devMove .drain s = writeReg r v { s with wbuf := rest } :=
  drain_reg hw hd (ho ▸ regAt_offset hp hr)

/-- A write of `CTRL` with `RST = 1` is the function-level reset (R82). -/
theorem drain_ctrl_reset (hp : s.cfg.Ok) (hw : s.wbuf = (off, v) :: rest) (hd : s.dev.removed = false)
    (ho : off = s.cfg.window.offCtrl) (hv : v.getLsbD s.cfg.window.ctrlRst = true) :
    devMove .drain s = functionLevelReset { s with wbuf := rest } := by
  rw [drain_at hp hw hd .ctrl (by simp [allRegs]) ho]
  exact if_pos hv

end Drain

/-- Settles O46: the register at each offset is the one placed there, and takes the write as its rule
says. -/
theorem drainAppliesOldestWrite : Obligations.DrainAppliesOldestWrite := by
  refine ⟨fun r v s => ⟨fun h => regWrite_live h r v, fun h => regWrite_short h r v⟩,
    fun s => ⟨rfl, fun _ _ => step_scheduled_dev⟩,
    fun s off v rest hp hw => ⟨drain_gone hw, fun hd => ⟨fun i hi ho => ?_, fun ho => ?_, fun q hq => ?_,
      fun q hq => ?_, fun ho => ?_, drain_ctrl_reset hp hw hd, fun ho hv => ?_, ?_⟩⟩⟩
  · exact drain_at hp hw hd (.mbmem i) (mbmem_mem_allRegs hi) ho
  · exact drain_at hp hw hd .intMask (by simp [allRegs]) ho
  · exact drain_reg hw hd (regAt_rxdctl hp hq)
  · exact drain_reg hw hd (regAt_txdctl hp hq)
  · exact drain_at hp hw hd .mbx (by simp [allRegs]) ho
  · rw [drain_at hp hw hd .ctrl (by simp [allRegs]) ho]
    exact if_neg (by simpa [hasBit] using hv)
  · rintro (ho | ho | rfl | ho)
    · exact drain_at hp hw hd .status (by simp [allRegs]) ho
    · exact drain_at hp hw hd .links (by simp [allRegs]) ho
    · exact drain_none hw hd (regAt_intCause hp)
    · exact drain_none hw hd (regAt_outside hp ho)

/-! ## The function-level reset (R82) -/

/-- A drawing changes the tape and the counter only. -/
theorem drawWords_eq (k : Nat) (s : State) :
    (drawWords k s).2 = { s with tape := (drawWords k s).2.tape, drawn := (drawWords k s).2.drawn } := by
  have hword (s : State) :
      (drawWord s).2 = { s with tape := (drawWord s).2.tape, drawn := (drawWord s).2.drawn } := by
    unfold drawWord
    split <;> rfl
  induction k generalizing s with
  | zero => rfl
  | succ k ih =>
    simp only [drawWords]
    rw [ih, hword]

/-- Words at the head of the tape are what is drawn. -/
theorem drawWords_tape {s : State} {ws more : List Word} (h : s.tape = ws ++ more) :
    drawWords ws.length s = (ws, { s with tape := more }) := by
  induction ws generalizing s with
  | nil => rw [List.nil_append] at h; subst h; rfl
  | cons w ws ih =>
    have hw : drawWord s = (w, { s with tape := ws ++ more }) := by simp [drawWord, h]
    simp only [List.length_cons, drawWords, hw]
    rw [ih rfl]

/-- Filling `MBMEM` changes nothing else of the device. -/
theorem fillMbmem_eq (win : Config.Window) (ws : List Word) (i : Nat) (d : Device) :
    fillMbmem win i ws d = { d with mbmem := (fillMbmem win i ws d).mbmem } := by
  induction ws generalizing i d with
  | nil => rfl
  | cons w ws ih =>
    simp only [fillMbmem]
    rw [ih]
    rfl

/-- Words below the first one filled stay. -/
theorem mbmemWord_fillMbmem_below (win : Config.Window) (ws : List Word) {i j : Nat} (hj : j < i)
    (d : Device) : (fillMbmem win i ws d).mbmemWord win j = d.mbmemWord win j := by
  induction ws generalizing i d with
  | nil => rfl
  | cons w ws ih =>
    simp only [fillMbmem]
    rw [ih (Nat.lt_succ_of_lt hj), Device.mbmemWord_setMbmemWord_ne win d w (Nat.ne_of_lt hj)]

/-- The words filled stand in their places. -/
theorem mbmemWord_fillMbmem (win : Config.Window) (ws : List Word) (i : Nat) {j : Nat}
    (hj : j < ws.length) {d : Device} (hd : Memory.wf d.mbmem = true) :
    (fillMbmem win i ws d).mbmemWord win (i + j) = ws.getD j 0#32 := by
  induction ws generalizing i j d with
  | nil => cases hj
  | cons w ws ih =>
    simp only [fillMbmem]
    cases j with
    | zero =>
      change (fillMbmem win (i + 1) ws (d.setMbmemWord win i w)).mbmemWord win i = w
      rw [mbmemWord_fillMbmem_below win ws (Nat.lt_add_one i), Device.mbmemWord_setMbmemWord_same win hd]
    | succ j =>
      have hd' : Memory.wf (d.setMbmemWord win i w).mbmem = true := Memory.wf_writeWord hd _ _
      rw [show i + (j + 1) = i + 1 + j by omega, ih (i + 1) (Nat.lt_of_succ_lt_succ hj) hd']
      rfl

/-- What the function-level reset leaves: the registers of R82, a drawn `MBMEM`, and everything else as it
was. -/
theorem functionLevelReset_eq (s : State) : functionLevelReset s = { s with
    tape := (functionLevelReset s).tape
    drawn := (functionLevelReset s).drawn
    dev := { resetRegs s.cfg.window s.dev with mbmem := (functionLevelReset s).dev.mbmem } } := by
  have hdraw := drawWords_eq s.cfg.mbxSize s
  have hdev : (functionLevelReset s).dev
      = { resetRegs s.cfg.window s.dev with mbmem := (functionLevelReset s).dev.mbmem } := by
    simp only [functionLevelReset, State.modDev_dev, drawWords_dev]
    exact fillMbmem_eq _ _ _ _
  rw [← hdev]
  simp only [functionLevelReset, State.modDev]
  rw [hdraw]

theorem functionLevelReset_wf {s : State} (h : Memory.wf s.dev.mbmem = true) :
    Memory.wf (functionLevelReset s).dev.mbmem = true := by
  simp only [functionLevelReset, State.modDev_dev, drawWords_dev]
  exact wf_fillMbmem _ _ _ _ h

/-- Every content of `MBMEM` can be drawn (R82). -/
theorem functionLevelReset_mbmemWord {s : State} (h : Memory.wf s.dev.mbmem = true) {ws more : List Word}
    (hlen : ws.length = s.cfg.mbxSize) (ht : s.tape = ws ++ more) {i : Nat} (hi : i < s.cfg.mbxSize) :
    (functionLevelReset s).dev.mbmemWord s.cfg.window i = ws.getD i 0#32 := by
  simp only [functionLevelReset, ← hlen, drawWords_tape ht, State.modDev_dev]
  have hfill := mbmemWord_fillMbmem s.cfg.window ws 0 (j := i) (hlen ▸ hi)
    (d := resetRegs s.cfg.window s.dev) h
  rwa [Nat.zero_add] at hfill

/-! ### Draining the rest of the queue -/

/-- Drawing does not look at the queue of posted writes. -/
theorem drawWords_withWbuf (k : Nat) (q : List (Nat × Word)) (s : State) :
    drawWords k { s with wbuf := q } = ((drawWords k s).1, { (drawWords k s).2 with wbuf := q }) := by
  have hword (s : State) :
      drawWord { s with wbuf := q } = ((drawWord s).1, { (drawWord s).2 with wbuf := q }) := by
    unfold drawWord
    cases s.tape <;> rfl
  induction k generalizing s with
  | zero => rfl
  | succ k ih => simp only [drawWords, hword, ih]

theorem writeReg_withWbuf (r : Reg) (v : Word) (q : List (Nat × Word)) (s : State) :
    writeReg r v { s with wbuf := q } = { writeReg r v s with wbuf := q } := by
  cases r with
  | ctrl =>
    simp only [writeReg]
    split
    · simp only [functionLevelReset, drawWords_withWbuf, State.modDev]
    · rfl
  | _ => rfl

theorem applyWrite_withWbuf (e : Nat × Word) (q : List (Nat × Word)) (s : State) :
    applyWrite e { s with wbuf := q } = { applyWrite e s with wbuf := q } := by
  simp only [applyWrite]
  split
  · rfl
  · cases regAt s.cfg e.1 with
    | none => rfl
    | some r => exact writeReg_withWbuf r e.2 q s

/-- Draining everything begins with the oldest write (R64, R79). -/
theorem drainAll_drain (s : State) : drainAll s = drainAll (devMove .drain s) := by
  cases hw : s.wbuf with
  | nil => rw [devMove_drain_nil hw]
  | cons e rest =>
    rw [devMove_drain_cons hw]
    simp only [drainAll, hw, applyAll, applyWrite_withWbuf]

/-- Settles O47: the write at `CTRL` is the function-level reset, whose draws fill `MBMEM` word by word. -/
theorem functionLevelReset_spec : Obligations.FunctionLevelReset := by
  refine ⟨fun s hd => ?_, drainAll_drain, fun s v rest hp hw hd hv hwf => ?_⟩
  · simp [sampleReg, readReg, hd]
  · rw [drain_ctrl_reset hp hw hd rfl hv]
    have hmem := functionLevelReset_wf (s := { s with wbuf := rest }) hwf
    have heq := functionLevelReset_eq { s with wbuf := rest }
    have hdrawn (ws more : List Word) (hlen : ws.length = s.cfg.mbxSize) (ht : s.tape = ws ++ more) (i : Nat) :=
      functionLevelReset_mbmemWord (s := { s with wbuf := rest }) hwf hlen ht (i := i)
    generalize functionLevelReset { s with wbuf := rest } = t at hmem heq hdrawn ⊢
    exact ⟨hdrawn, t.dev.mbmem, t.tape, t.drawn, hmem, heq⟩

/-! ## Register reads (R61 to R64) -/

section Reads

variable {s : State} {r : Reg} {w : Word} {rest : List Word}

/-- Only `STATUS` and `CTRL` read as `any()`: a sample of another register changes nothing (R40, R41). -/
theorem sampleReg_state (hs : r ≠ .status) (hc : r ≠ .ctrl) : (sampleReg r s).2 = s := by
  unfold sampleReg
  split
  · rfl
  · cases r with
    | status => exact absurd rfl hs
    | ctrl => exact absurd rfl hc
    | _ => rfl

/-- A sample of `STATUS` of a present device is a draw (R41). -/
theorem sampleReg_status (hd : s.dev.removed = false) (ht : s.tape = w :: rest) :
    sampleReg .status s = (w, { s with tape := rest }) := by
  simp [sampleReg, readReg, drawWord, hd, ht]

/-- A read of a present device with no write pending: the sample and the removal check (R61). -/
theorem regRead_drained (h : s.h.removed = false) (hw : s.wbuf = []) :
    regRead r s = ((sampleReg r s).1, confirmRemoval r (sampleReg r s).1 (sampleReg r s).2) := by
  rw [regRead_live h, drainAll_nil hw]

/-- The removal check marks a present device exactly when the value and the confirming `STATUS` are both
all-ones (R61). -/
theorem confirmRemoval_removed_iff (hr : r ≠ .status) (h : s.h.removed = false)
    (hd : s.dev.removed = false) (ht : s.tape = w :: rest) (v : Word) :
    (confirmRemoval r v s).h.removed = true ↔ v = allOnes ∧ w = allOnes := by
  by_cases hv : v = allOnes
  · by_cases hw : w = allOnes <;> simp [confirmRemoval, hr, hv, hw, sampleReg_status hd ht, h]
  · rw [confirmRemoval_other r hv]
    simp [hv, h]

/-- A read of another register than `STATUS` and `CTRL` finds a present device gone exactly when it and the
confirming `STATUS` read all-ones (R61). -/
theorem regRead_removed_iff (h : s.h.removed = false) (hd : s.dev.removed = false) (hw : s.wbuf = [])
    (hs : r ≠ .status) (hc : r ≠ .ctrl) (ht : s.tape = w :: rest) :
    (regRead r s).2.h.removed = true ↔ (sampleReg r s).1 = allOnes ∧ w = allOnes := by
  rw [regRead_drained h hw, sampleReg_state hs hc]
  exact confirmRemoval_removed_iff hs h hd ht _

/-- The value read from a present device with no write pending is the register's (R61). -/
theorem regRead_value (h : s.h.removed = false) (hd : s.dev.removed = false) (hw : s.wbuf = []) :
    (regRead r s).1 = (readReg r s).1 := by
  rw [regRead_drained h hw]
  simp [sampleReg, hd]

/-- A value that is not all-ones changes nothing (R61). -/
theorem regRead_unchanged (h : s.h.removed = false) (hw : s.wbuf = []) (hs : r ≠ .status)
    (hc : r ≠ .ctrl) (hv : (regRead r s).1 ≠ allOnes) : (regRead r s).2 = s := by
  rw [regRead_drained h hw] at hv ⊢
  rw [confirmRemoval_other r hv, sampleReg_state hs hc]

/-- A read of `STATUS` answers what is drawn, and marks a present device removed exactly when that is
all-ones (R61, R302). -/
theorem regRead_status (h : s.h.removed = false) (hd : s.dev.removed = false) (hw : s.wbuf = [])
    (ht : s.tape = w :: rest) : regRead .status s
      = (w, { s with tape := rest, h := { s.h with removed := decide (w = allOnes) } }) := by
  rw [regRead_drained h hw, sampleReg_status hd ht]
  by_cases hv : w = allOnes
  · simp [confirmRemoval, hv, markRemoved, State.modHandle]
  · simp [confirmRemoval, hv, ← h]

theorem queueOf_eq {qs : List QueueRegs} {q : Nat} {x : QueueRegs} (h : qs[q]? = some x) :
    queueOf qs q = x := by simp [queueOf, h]

end Reads

/-- Settles O48, clause by clause from the laws of `RegRead`. -/
theorem regReadDrainsAndDetectsRemoval : Obligations.RegReadDrainsAndDetectsRemoval := by
  refine fun s r => ⟨fun h => ⟨regRead_short h, flush_short h⟩, fun h => ⟨?_, ?_, regRead_dev h,
    regRead_dev h, by rw [regRead_live h]⟩, fun h hd => ?_, fun h hd hw i w rest hr ht => ?_,
    fun h hd hw w rest hs hc ht => regRead_removed_iff h hd hw hs hc ht,
    fun h hd hw => ⟨regRead_value h hd hw, regRead_value h hd hw, fun q x hq => ⟨?_, ?_⟩,
      fun hs hc hv => regRead_unchanged h hw hs hc hv⟩,
    fun h hd hw w rest ht => ?_, ⟨regRead_h r s, flush_h s, fun h => ⟨regRead_sticky h, regRead_sticky h⟩⟩,
    fun h hd hw hr => ?_⟩
  · simp [regRead_live h]
  · simp [flush, regRead_live h]
  · rw [regRead_discovers h hd]
    exact ⟨rfl, by simp⟩
  · subst hr
    have hvalue : (sampleReg (.mbmem i) s).1 = s.dev.mbmemWord s.cfg.window i := by
      simp [sampleReg, readReg, hd]
    exact ⟨regRead_value h hd hw,
      hvalue ▸ regRead_removed_iff h hd hw (by simp) (by simp) ht⟩
  · rw [regRead_value h hd hw, ← queueOf_eq hq]; rfl
  · rw [regRead_value h hd hw, ← queueOf_eq hq]; rfl
  · rw [flush, regRead_status h hd hw ht]
    exact ⟨rfl, rfl, rfl⟩
  · subst hr
    rw [regRead_mbx h hd, drainAll_nil hw]

end Sys2Proof.Machine
end

section
/-!
The invariant under changes that no command's control flow sees, and under a pending update: lengths,
parameters and the device by what each operation keeps, the control rules because what the pending updates
lead to stays the same.
-/

namespace Sys2Proof.Machine

open Sys2Proof

/-! ## The part of the invariant that no control flow touches -/

/-- The clauses of the invariant about parameters, lengths and the device (R8, R25, R26, R46, R70). -/
structure Static (s : State) : Prop where
  params : s.cfg.Ok
  msgLength : s.msg.length = s.cfg.mbxSize
  hostBufLength : s.hostBuf.length = s.cfg.mbxSize
  keyLength : s.h.rssKey.length = Config.rssKeyBytes
  retaLength : s.h.reta.length = Config.retaEntries
  queuesLength : s.dev.queues.length = s.cfg.numQueues
  device : s.dev.ok

theorem Inv.static {s : State} (h : Inv s) : Static s where
  params := h.params
  msgLength := h.msgLength
  hostBufLength := h.hostBufLength
  keyLength := h.keyLength
  retaLength := h.retaLength
  queuesLength := h.queuesLength
  device := ⟨h.memory, h.lock⟩

theorem Static.inv {s : State} (h : Static s) (pending : PendingOk s)
    (middle : s.h.fsm = .resetting ∨ s.h.fsm = .awaitingPermAddr →
      ∃ f, s.seq = .busy f ∧ f.cmd = .reset)
    (control : Control (settled s)) : Inv s where
  params := h.params
  msgLength := h.msgLength
  hostBufLength := h.hostBufLength
  keyLength := h.keyLength
  retaLength := h.retaLength
  queuesLength := h.queuesLength
  memory := h.device.1
  lock := h.device.2
  pending := pending
  middle := middle
  control := control

/-- An idle state has nothing pending. -/
theorem Static.inv_idle {s : State} (h : Static s) (hi : s.seq = .idle) (hc : Control (settled s)) : Inv s :=
  h.inv (fun f hf => by rw [hi] at hf; cases hf) (by rw [settled_idle hi] at hc; exact hc.middle) hc

/-- A quiet change that also keeps the buffers' lengths and a legal device. -/
structure Calm (s t : State) : Prop extends Quiet s t where
  msgLength : t.msg.length = s.msg.length
  hostBufLength : t.hostBuf.length = s.hostBuf.length
  device : s.dev.ok → t.dev.ok

theorem Calm.static {s t : State} (h : Calm s t) (hs : Static s) : Static t where
  params := h.cfg ▸ hs.params
  msgLength := by rw [h.msgLength, h.cfg, hs.msgLength]
  hostBufLength := by rw [h.hostBufLength, h.cfg, hs.hostBufLength]
  keyLength := by rw [h.h]; exact hs.keyLength
  retaLength := by rw [h.h]; exact hs.retaLength
  queuesLength := by rw [h.queues, h.cfg, hs.queuesLength]
  device := h.device hs.device

@[refl] theorem Calm.refl (s : State) : Calm s s := ⟨.refl s, rfl, rfl, id⟩

theorem calm_refuse (s : State) : Calm s (refuse s) := ⟨quiet_refuse s, rfl, rfl, id⟩

theorem calm_hostReceive (s : State) : Calm s (hostReceive s) := ⟨quiet_hostReceive s, rfl, rfl, id⟩

theorem calm_nextMove (s : State) : Calm s (nextMove s).2 := by
  unfold nextMove
  split <;> exact ⟨.of_eq rfl rfl rfl rfl, rfl, rfl, id⟩

theorem calm_plan (ps : List Prim) (f : Frame) (s : State) : Calm s (plan ps f s) :=
  ⟨(Quiet.refl s).plan ps f, rfl, rfl, id⟩

theorem calm_storeWord (c : Instr) (i : Nat) (w : Word) (s : State) : Calm s (storeWord c i w s) :=
  ⟨quiet_storeWord c i w s, by simp, by simp, by simp⟩

theorem calm_readPermAddr (s : State) : Calm s (readPermAddr s).2 :=
  ⟨quiet_readPermAddr s, by simp, by simp, by simp⟩

theorem calm_regRead (r : Reg) (s : State) : Calm s (regRead r s).2 :=
  ⟨quiet_regRead r s, by simp, by simp, fun h => regRead_ok h r⟩

theorem calm_flush (s : State) : Calm s (flush s) := calm_regRead .status s

theorem calm_regWrite (r : Reg) (v : Word) (s : State) : Calm s (regWrite r v s) :=
  ⟨quiet_regWrite r v s, by simp, by simp, by simp⟩

theorem calm_pfMove (p : PfStep) (s : State) : Calm s (pfMove p s) where
  toQuiet := quiet_pfMove p s
  msgLength := by rw [(pfMove_sameBlock p s).msg]
  hostBufLength := by rw [(pfMove_sameBlock p s).hostBuf]
  device := fun h => pfMove_ok h p

theorem calm_devMove (d : DevStep) (s : State) : Calm s (devMove d s) where
  toQuiet := quiet_devMove d s
  msgLength := by rw [(devMove_sameBlock d s).msg]
  hostBufLength := by rw [(devMove_sameBlock d s).hostBuf]
  device := fun h => devMove_ok h d

/-! ## The part of the state that the control rules read -/

/-- The states agree on everything the control rules speak of (R149, R170, R210, R211). -/
structure SameControl (s t : State) : Prop where
  seq : t.seq = s.seq
  fsm : t.h.fsm = s.h.fsm
  mbxTimeout : t.h.mbxTimeout = s.h.mbxTimeout
  apiVersion : t.h.apiVersion = s.h.apiVersion
  cfg : t.cfg = s.cfg

theorem Quiet.sameControl {s t : State} (h : Quiet s t) (hseq : t.seq = s.seq) : SameControl s t :=
  ⟨hseq, by rw [h.h], by rw [h.h], by rw [h.h], h.cfg⟩

theorem Control.of_same {s t : State} (hs : Control s) (h : SameControl s t) : Control t where
  frame := by rw [h.seq, h.cfg]; exact hs.frame
  operation := by rw [h.seq, h.fsm]; exact hs.operation
  phase := by rw [h.seq, h.fsm]; exact hs.phase
  middle := by rw [h.seq, h.fsm]; exact hs.middle
  armed := by rw [h.seq, h.fsm, h.mbxTimeout, h.cfg]; exact hs.armed
  rebased := by rw [h.seq, h.apiVersion, h.cfg]; exact hs.rebased

/-- An update reads nothing else of the state into what the control rules speak of. -/
theorem SameControl.runPrim {s t : State} (h : SameControl s t) (p : Prim) :
    SameControl (runPrim p s) (runPrim p t) := by
  obtain ⟨hseq, hfsm, htime, hver, hcfg⟩ := h
  cases p with
  | anyBuf i => cases hs : s.seq <;> constructor <;> simp [Machine.runPrim, *]
  | hash v => cases hs : s.seq <;> constructor <;> simp [Machine.runPrim, *]
  | _ => constructor <;> simp [Machine.runPrim, *]

theorem SameControl.plan {s t : State} (h : SameControl s t) (ps : List Prim) (f : Frame) :
    SameControl (plan ps f s) (plan ps f t) :=
  ⟨rfl, h.fsm, h.mbxTimeout, h.apiVersion, h.cfg⟩

theorem SameControl.runNext {s t : State} (h : SameControl s t) :
    SameControl (runNext s) (runNext t) := by
  cases hs : s.seq with
  | idle =>
    have ht : t.seq = .idle := h.seq.trans hs
    simpa [Machine.runNext, hs, ht] using h
  | busy f =>
    have ht : t.seq = .busy f := h.seq.trans hs
    cases hps : f.todo with
    | nil => simpa [Machine.runNext, hs, ht, hps] using h
    | cons p ps =>
      rw [runNext_cons hs hps, runNext_cons ht hps]
      exact (h.plan ps f).runPrim p

theorem SameControl.settled {s t : State} (h : SameControl s t) :
    SameControl (settled s) (settled t) := by
  have key : ∀ (k : Nat) {s t : State}, SameControl s t →
      SameControl (runPending k s) (runPending k t) := by
    intro k
    induction k with
    | zero => exact id
    | succ k ih => exact fun h => ih h.runNext
  cases hs : s.seq with
  | idle => rwa [settled_idle hs, settled_idle (h.seq.trans hs)]
  | busy f => simpa only [Machine.settled, hs, h.seq.trans hs] using key f.todo.length h

/-- A calm change that leaves the sequencer alone keeps the invariant: the pending updates lead to the same
control state. -/
theorem Inv.of_calm {s t : State} (hs : Inv s) (h : Calm s t) (hseq : t.seq = s.seq) : Inv t := by
  have hc : SameControl s t := h.toQuiet.sameControl hseq
  refine (h.static hs.static).inv ?_ ?_ (hs.control.of_same hc.settled)
  · unfold PendingOk; rw [hseq]; exact hs.pending
  · rw [hc.fsm, hseq]; exact hs.middle

/-! ## Pending updates -/

/-- The updates may be pending for the command `c`. -/
structure PlanOk (c : Instr) (ps : List Prim) : Prop where
  allowed : ∀ p ∈ ps, primOk c p = true
  ends : ∀ p ∈ ps.dropLast, p.isEnd = false
  fsm : ps.countP Prim.setsFsm ≤ 1

theorem PlanOk.tail {c : Instr} {p : Prim} {ps : List Prim} (h : PlanOk c (p :: ps)) : PlanOk c ps where
  allowed := fun q hq => h.allowed q (List.mem_cons_of_mem _ hq)
  ends := fun q hq => h.ends q (by cases ps with
    | nil => cases hq
    | cons r rs => exact List.mem_cons_of_mem _ hq)
  fsm := Nat.le_trans (List.sublist_cons_self p ps).countP_le h.fsm

/-- The updates are ones the command may make, none ends it, and none writes the control state. -/
def Steady (c : Instr) (ps : List Prim) : Prop :=
  ∀ p ∈ ps, primOk c p = true ∧ p.isEnd = false ∧ p.setsFsm = false

theorem Steady.countP {c : Instr} {ps : List Prim} (h : Steady c ps) : ps.countP Prim.setsFsm = 0 :=
  List.countP_eq_zero.2 fun p hp => by simp [(h p hp).2.2]

theorem Steady.planOk {c : Instr} {ps : List Prim} (h : Steady c ps) : PlanOk c ps where
  allowed := fun p hp => (h p hp).1
  ends := fun p hp => (h p (List.dropLast_subset ps hp)).2.1
  fsm := by rw [h.countP]; exact Nat.zero_le 1

theorem steady_nil (c : Instr) : Steady c [] := by rintro _ ⟨⟩

theorem Steady.cons {c : Instr} {p : Prim} {ps : List Prim} (h : Steady c ps) (hp : primOk c p = true)
    (he : p.isEnd = false := by rfl) (hf : p.setsFsm = false := by rfl) : Steady c (p :: ps) :=
  List.forall_mem_cons.2 ⟨⟨hp, he, hf⟩, h⟩

/-- Steady updates may be followed by the `return` or `raise` of a status the command has (R265). -/
theorem Steady.planOk_ends {c : Instr} {ps : List Prim} (h : Steady c ps) {status : Status}
    (hst : statusAllowed c status = true) (what : Returned) : PlanOk c (ps ++ [Prim.ends status what]) where
  allowed := fun p hp => by
    rcases List.mem_append.1 hp with hp | hp
    · exact (h p hp).1
    · rw [List.mem_singleton.1 hp]; exact hst
  ends := fun p hp => by rw [List.dropLast_concat] at hp; exact (h p hp).2.1
  fsm := by simp [h.countP, Prim.setsFsm]

/-- Steady updates may be followed by a write of the control state and an end. -/
theorem Steady.planOk_fsm {c : Instr} {ps : List Prim} (h : Steady c ps) {x : Fsm}
    (hx : primOk c (.fsm x) = true) {status : Status} (hst : statusAllowed c status = true)
    (what : Returned) : PlanOk c (ps ++ [Prim.fsm x, .ends status what]) where
  allowed := fun p hp => by
    rcases List.mem_append.1 hp with hp | hp
    · exact (h p hp).1
    · rcases List.mem_cons.1 hp with rfl | hp
      · exact hx
      · rw [List.mem_singleton.1 hp]; exact hst
  ends := fun p hp => by
    rw [List.append_cons, List.dropLast_concat] at hp
    rcases List.mem_append.1 hp with hp | hp
    · exact (h p hp).2.1
    · rw [List.mem_singleton.1 hp]; rfl
  fsm := by simp [List.countP_cons, h.countP, Prim.setsFsm]

/-- An update the command may make keeps lengths, parameters and the device. -/
theorem Static.runPrim {s : State} {c : Instr} {p : Prim} (hs : Static s) (hp : primOk c p = true) :
    Static (runPrim p s) where
  params := by simpa using hs.params
  msgLength := by simpa using hs.msgLength
  hostBufLength := by simpa using hs.hostBufLength
  keyLength := by
    cases p with
    | rssKey bs => exact of_decide_eq_true (Bool.and_elim_right hp)
    | anyBuf i => simp only [Machine.runPrim]; split <;> simpa using hs.keyLength
    | hash v => simp only [Machine.runPrim]; split <;> simpa using hs.keyLength
    | _ => simpa [Machine.runPrim] using hs.keyLength
  retaLength := by simpa using hs.retaLength
  queuesLength := by simpa using hs.queuesLength
  device := by simpa using hs.device

/-- A state with the updates `ps` planned has the invariant when its parts have what the clauses ask. -/
theorem inv_plan {u : State} {g : Frame} {ps : List Prim} (hu : Static u)
    (hp : pointOf g.cmd g.point = true) (hps : PlanOk g.cmd ps)
    (hm : u.h.fsm = .resetting ∨ u.h.fsm = .awaitingPermAddr → g.cmd = .reset)
    (hc : Control (settled (plan ps g u))) : Inv (plan ps g u) :=
  ((calm_plan ps g u).static hu).inv (by rintro f ⟨⟩; exact ⟨hp, hps.allowed, hps.ends, hps.fsm⟩)
    (fun h => ⟨_, rfl, hm h⟩) hc

/-- An update that is no end writes no middle control state unless its command is RESET (R211). -/
theorem runPrim_middle {c : Instr} {p : Prim} {s : State} (hp : primOk c p = true)
    (h : (runPrim p s).h.fsm = .resetting ∨ (runPrim p s).h.fsm = .awaitingPermAddr) :
    c = .reset ∨ s.h.fsm = .resetting ∨ s.h.fsm = .awaitingPermAddr := by
  by_cases hc : c = .reset
  · exact .inl hc
  · refine .inr ?_
    cases p with
    | fsm x =>
      have hx : x = .stopped := by
        change (decide (c = .reset) || (decide (c = .stop) && decide (x = .stopped))) = true at hp
        simp only [hc, decide_false, Bool.false_or, Bool.and_eq_true, decide_eq_true_eq] at hp
        exact hp.2
      subst hx
      rcases h with h | h <;> cases h
    | anyBuf i => simp only [Machine.runPrim] at h; split at h <;> simpa using h
    | hash v => simp only [Machine.runPrim] at h; split at h <;> simpa using h
    | _ => simpa [Machine.runPrim] using h

/-- Making the next pending update keeps the invariant (R35): what the pending updates lead to is the
same. -/
theorem Inv.runNext {s : State} (h : Inv s) : Inv (runNext s) := by
  have hcontrol : Control (settled (Machine.runNext s)) := by rw [settled_runNext]; exact h.control
  cases hs : s.seq with
  | idle => rwa [runNext_settled fun f hf => by rw [hs] at hf; cases hf]
  | busy f =>
    cases hps : f.todo with
    | nil => rwa [runNext_settled fun g hg => by rw [hs] at hg; cases hg; exact hps]
    | cons p ps =>
      obtain ⟨hpoint, hallowed, hends, hfsm⟩ := h.pending f hs
      have hplan : PlanOk f.cmd (p :: ps) := hps ▸ ⟨hallowed, hends, hfsm⟩
      have hp : primOk f.cmd p = true := hplan.allowed p List.mem_cons_self
      have hstatic : Static (runPrim p (plan ps f s)) :=
        ((calm_plan ps f s).static h.static).runPrim hp
      rw [runNext_cons hs hps] at hcontrol ⊢
      have hseq : (plan ps f s).seq = .busy { f with todo := ps } := rfl
      cases hend : p.isEnd with
      | true => exact hstatic.inv_idle ((runPrim_idle hseq).2 hend) hcontrol
      | false =>
        obtain ⟨r, hr⟩ := runPrim_busy hseq hend
        have heq : runPrim p (plan ps f s) = plan ps { f with req := r } (runPrim p (plan ps f s)) := by
          simp only [plan, State.setFrame, ← hr]
        rw [heq] at hcontrol ⊢
        refine inv_plan hstatic hpoint hplan.tail (fun hm => ?_) hcontrol
        rcases runPrim_middle hp hm with hc | hm
        · exact hc
        · obtain ⟨g, hg, hc⟩ := h.middle hm
          rw [hs] at hg
          cases hg
          exact hc

/-- Performing updates is planning them and making the first (R35). -/
theorem perform_eq_runNext (ps : List Prim) (f : Frame) (s : State) :
    perform ps f s = runNext (plan ps f s) := by
  cases ps with
  | nil => rfl
  | cons p ps => rw [runNext_cons (plan_seq _ _ _) rfl]; rfl

end Sys2Proof.Machine
end

section
/-!
The invariant at the steps of a running command: where its points lie, what a move to another point and an
end keep, and every step of the transport.
-/

namespace Sys2Proof.Machine

open Sys2Proof

/-! ## Points -/

/-- The points at which a request is still to be built. -/
def buildPoints : List Point :=
  [.ctrlWrite, .ctrlFlush, .settle, .rstSample, .rstTest, .rstDelay, .arm, .encode]

/-- What a legal frame is, clause by clause. -/
theorem Frame.ok_iff (p : Config.Params) (f : Frame) : f.ok p = true ↔
    pointOf f.cmd f.point = true ∧ (f.point = .hash → f.req = some (.setMulticastReq [])) ∧
      (∀ r, f.req = some r → r.group = .request ∧ r.wellFormed p = true) ∧
      (f.req = none → f.point ∉ buildPoints) := by
  unfold Frame.ok buildPoints
  cases f.req with
  | none => simp [and_assoc]
  | some r => simp [and_assoc]; tauto

/-- The point `q` lies on the transport contract `use`: WRITE_POSTED or READ_POSTED (R143, R144). -/
def onSide : Use → Point → Bool
  | .post => isPostPoint
  | .read => isReadPoint

/-- The command runs the transport contract: a raw WRITE_POSTED or READ_POSTED runs its own only (R143,
R144, R146, R214). -/
def runsSide : Use → Instr → Bool
  | .post, .readPosted _ _ | .read, .writePosted _ _ _ => false
  | _, c => usesTransport c

/-- The points of a command outside the two transport contracts. -/
def ownPoints : Instr → List Point
  | .start | .init | .mtaVector _ _ | .readHandle _ => [.run]
  | .stop => [.txRead, .txWrite, .rxRead, .rxWrite, .maskWrite, .stopFlush, .stopDone]
  | .reset => [.ctrlWrite, .ctrlFlush, .settle, .rstSample, .rstTest, .rstDelay, .arm, .await,
      .replySettle, .encode, .decode]
  | .setMac _ | .setVlan _ _ | .setMacvlan _ _ | .getReta | .getRssKey | .negotiateApi _ =>
    [.encode, .decode]
  | .updateMc _ => [.hash, .encode, .decode]
  | .checkForRst _ => [.indicatorRead, .indicatorTest]
  | .checkLink => [.indicatorRead, .indicatorTest, .linksRead, .linksTest]
  | _ => []

/-- A command's points are its own and those of the contracts it runs. -/
theorem pointOf_eq (c : Instr) (q : Point) : pointOf c q = (decide (q ∈ ownPoints c)
    || runsSide .post c && onSide .post q || runsSide .read c && onSide .read q) := by
  have alone (b : Bool) : b = (b || false || false) := by simp
  cases c with
  | start | init | mtaVector | readHandle =>
    change decide (q = .run) = (decide (q ∈ [Point.run]) || false || false)
    simp
  | stop | checkForRst | checkLink => exact alone _
  | writePosted => exact (Bool.or_false _).symm
  | _ => rfl

/-- A command's own points lie on neither contract. -/
theorem not_onSide_of_own {c : Instr} {q : Point} (h : q ∈ ownPoints c) (use : Use) :
    onSide use q = false := by
  have key : (ownPoints c).all (fun q => !onSide .post q && !onSide .read q) = true := by
    cases c <;> rfl
  have hq := List.all_eq_true.1 key q h
  cases use <;> simp_all

/-- No point lies on both contracts. -/
theorem not_onSide_both (q : Point) : (isPostPoint q && isReadPoint q) = false := by
  cases q with
  | lockBudget use | lockWrite use | lockRead use | lockTest use | lockDelay use => cases use <;> rfl
  | _ => rfl

/-- At a point of a contract stand the commands that run it. -/
theorem pointOf_onSide {use : Use} {q : Point} (h : onSide use q = true) (c : Instr) :
    pointOf c q = runsSide use c := by
  have hown : q ∉ ownPoints c := fun hq => by simp [not_onSide_of_own hq] at h
  have hboth := not_onSide_both q
  cases use <;> simp_all [pointOf_eq, onSide]

theorem usesTransport_of_runsSide {use : Use} {c : Instr} (h : runsSide use c = true) :
    usesTransport c = true := by
  unfold runsSide at h
  split at h
  · cases h
  · cases h
  · exact h

/-- RESET has armed its timeout and stands in one control state at every point of a contract (R211,
R214). -/
theorem afterArm_of_onSide {use : Use} {q : Point} (h : onSide use q = true) : afterArm q = true := by
  cases use <;> simp_all [onSide, afterArm]

/-- The control state of RESET while it runs the contract (R211). -/
def sidePhase : Use → Fsm
  | .post => .resetting
  | .read => .awaitingPermAddr

theorem resetPhase_onSide {use : Use} {q : Point} (h : onSide use q = true) :
    resetPhase q = sidePhase use := by
  unfold resetPhase
  cases use with
  | post =>
    have hread : isReadPoint q = false := by simpa [show isPostPoint q = true from h] using not_onSide_both q
    have key : ∀ r ∈ [Point.replySettle, .decode], onSide .post r = false := by decide
    have hlater : q ∉ [Point.replySettle, .decode] := fun hq => by simp [key q hq] at h
    simp only [hread, hlater]; rfl
  | read => rw [show isReadPoint q = true from h]; rfl

/-- No request is hashed or built at a point of a contract. -/
theorem not_build_of_onSide {use : Use} {q : Point} (h : onSide use q = true) :
    q ≠ .hash ∧ q ∉ buildPoints := by
  have key : ∀ r ∈ Point.hash :: buildPoints, onSide use r = false := by
    cases use <;> decide
  exact ⟨fun hq => by simp [hq ▸ h] at key, fun hq => by simp [key q (List.mem_cons_of_mem _ hq)] at h⟩

/-- The request is known at `q` if it is at `p`, and `q` is not where the hash loop begins. -/
abbrev BuildsOn (p q : Point) : Prop := q ≠ .hash ∧ (q ∈ buildPoints → p ∈ buildPoints)

/-- RESET is in one control state at `p` and `q`, and has armed its timeout at `p` if it has at `q` (R211,
R214). -/
abbrev SamePart (p q : Point) : Prop :=
  resetPhase q = resetPhase p ∧ (afterArm q = true → afterArm p = true)

/-- Of the commands that post a message only a raw WRITE_POSTED reads none. -/
theorem runsSide_read {c : Instr} (h : runsSide .post c = true) (hw : ∀ m l i, c ≠ .writePosted m l i) :
    runsSide .read c = true := by
  unfold runsSide
  split
  · contradiction
  · exact absurd rfl (hw _ _ _)
  · exact usesTransport_of_runsSide h

/-- The operations and RESET build a request and interpret a reply (R170, R214). -/
theorem pointOf_encode (c : Instr) : pointOf c .encode = (isOperation c || decide (c = .reset)) := by
  cases c <;> rfl

theorem pointOf_decode (c : Instr) : pointOf c .decode = (isOperation c || decide (c = .reset)) := by
  cases c <;> rfl

/-- A command that reads replies and is none of the transport's own interprets them. -/
theorem pointOf_decode_of_read {c : Instr} (h : runsSide .read c = true)
    (hr : ∀ l i, c ≠ .readPosted l i) (he : ∀ a b, c ≠ .exchange a b) : pointOf c .decode = true := by
  have hraw : isTransport c = false := by
    unfold isTransport
    split <;> simp_all [runsSide]
  rw [pointOf_decode]
  simpa [usesTransport, hraw] using usesTransport_of_runsSide h

/-- A command that builds a request posts it. -/
theorem runsSide_of_encode {c : Instr} (h : pointOf c .encode = true) : runsSide .post c = true := by
  rw [pointOf_encode] at h
  unfold runsSide
  split
  · cases h
  · contradiction
  · simp only [usesTransport, Bool.or_eq_true, decide_eq_true_eq] at h ⊢
    exact h.imp_left .inl

/-! ## A running command -/

/-- A state with the invariant in which a command stands at a point with nothing pending. -/
structure Running (s : State) (f : Frame) : Prop where
  inv : Inv s
  seq : s.seq = .busy f
  todo : f.todo = []

section Running

variable {s t u : State} {f g : Frame}

theorem Running.control (h : Running s f) : Control s := by
  rw [← settled_none h.seq h.todo]; exact h.inv.control

theorem Running.point (h : Running s f) : pointOf f.cmd f.point = true :=
  ((f.ok_iff s.cfg).1 (h.control.frame f h.seq)).1

/-- Only RESET runs in a middle control state (R210). -/
theorem Running.middle (h : Running s f) (hm : s.h.fsm = .resetting ∨ s.h.fsm = .awaitingPermAddr) :
    f.cmd = .reset := by
  obtain ⟨g, hg, hc⟩ := h.inv.middle hm
  rw [h.seq] at hg
  cases hg
  exact hc

/-- The frame `g` is one the command in `f` may stand in next: at a point of its own, in the same part of
RESET (R211, R214). -/
structure Follows (p : Config.Params) (f g : Frame) : Prop where
  cmd : g.cmd = f.cmd
  ok : g.ok p = true
  phase : f.cmd = .reset → resetPhase g.point = resetPhase f.point
  armed : f.cmd = .reset → afterArm g.point = true → afterArm f.point = true

/-- The control rules hold in the next frame as they held in the last one. -/
theorem Running.control_follows (h : Running s f) (hg : Follows s.cfg f g) (hu : Quiet s u) :
    Control (u.setFrame g) := by
  have hs := h.control
  have hfsm : (u.setFrame g).h.fsm = s.h.fsm := by rw [State.setFrame_h, hu.h]
  have htime : (u.setFrame g).h.mbxTimeout = s.h.mbxTimeout := by rw [State.setFrame_h, hu.h]
  have hver : (u.setFrame g).h.apiVersion = s.h.apiVersion := by rw [State.setFrame_h, hu.h]
  have hcfg : (u.setFrame g).cfg = s.cfg := hu.cfg
  constructor
  case frame => rintro _ ⟨⟩; rw [hcfg]; exact hg.ok
  case operation => rintro _ ⟨⟩ ho; rw [hfsm]; exact hs.operation f h.seq (hg.cmd ▸ ho)
  case phase =>
    rintro _ ⟨⟩ hc
    rw [hg.cmd] at hc
    rw [hfsm, hg.phase hc]
    exact hs.phase f h.seq hc
  case middle =>
    rw [hfsm]
    exact fun hm => ⟨g, rfl, hg.cmd.trans (h.middle hm)⟩
  case armed =>
    rw [hfsm, htime, hcfg]
    rintro (hr | ⟨_, ⟨⟩, hc, ha⟩)
    · exact hs.armed (.inl hr)
    · rw [hg.cmd] at hc
      exact hs.armed (.inr ⟨f, h.seq, hc, hg.armed hc ha⟩)
  case rebased =>
    rintro _ ⟨⟩ hc ha
    rw [hg.cmd] at hc
    rw [hver, hcfg]
    exact hs.rebased f h.seq hc (hg.armed hc ha)

/-- Planning updates of the running command keeps the invariant when the control rules hold after them. -/
theorem Running.plan (h : Running s f) (hu : Calm s u) (hc : g.cmd = f.cmd)
    (hp : pointOf f.cmd g.point = true) {ps : List Prim} (hps : PlanOk f.cmd ps)
    (hcontrol : Control (settled (plan ps g u))) : Inv (plan ps g u) :=
  inv_plan (hu.static h.inv.static) (by rwa [hc]) (by rwa [hc])
    (fun hm => hc.trans (h.middle (by rwa [hu.h] at hm))) hcontrol

/-- Moving on to a frame that may follow keeps the invariant. -/
theorem Running.moveTo (h : Running s f) (hu : Calm s u) (hg : Follows s.cfg f g) (ht : g.todo = f.todo) :
    Inv (u.setFrame g) := by
  have hplan : u.setFrame g = Machine.plan [] g u := by simp [Machine.plan, ← h.todo, ← ht]
  rw [hplan]
  refine h.plan hu hg.cmd ?_ (ps := []) (Steady.planOk (by rintro _ ⟨⟩)) ?_
  · rw [← hg.cmd]; exact ((g.ok_iff s.cfg).1 hg.ok).1
  · rw [settled_plan_nil, ← hplan]; exact h.control_follows hg hu.toQuiet

/-- A frame with another point and other locals is legal when the point is the command's. -/
theorem Running.frame_ok (h : Running s f) {p : Point} (hpf : f.point = p) (q : Point)
    (hp : pointOf f.cmd q = true) (hb : BuildsOn p q) (hc : g.cmd = f.cmd := by rfl)
    (hr : g.req = f.req := by rfl) (hq : g.point = q := by rfl) : g.ok s.cfg = true := by
  subst hpf hq
  obtain ⟨_, _, hreq, hnone⟩ := (f.ok_iff s.cfg).1 (h.control.frame f h.seq)
  refine (g.ok_iff s.cfg).2 ⟨by rwa [hc], fun hq => absurd hq hb.1, by rwa [hr], ?_⟩
  rw [hr]
  exact fun hn hq => hnone hn (hb.2 hq)

/-- Such a frame follows when RESET stays in its part. -/
theorem Running.follows (h : Running s f) {p : Point} (hpf : f.point = p) (q : Point)
    (hp : pointOf f.cmd q = true) (hb : BuildsOn p q) (hreset : f.cmd = .reset → SamePart p q)
    (hc : g.cmd = f.cmd := by rfl) (hr : g.req = f.req := by rfl) (hq : g.point = q := by rfl) :
    Follows s.cfg f g where
  cmd := hc
  ok := h.frame_ok hpf q hp hb hc hr hq
  phase := fun hc => by rw [hq, hpf]; exact (hreset hc).1
  armed := fun hc => by rw [hq, hpf]; exact (hreset hc).2

/-- From one point of a command to the next. -/
theorem Running.go (h : Running s f) {c : Instr} (hc : f.cmd = c) (hu : Calm s u) {p : Point}
    (hpf : f.point = p) (q : Point) (hp : pointOf c q = true) (hb : BuildsOn p q)
    (hreset : c = .reset → SamePart p q) (hgc : g.cmd = f.cmd := by rfl) (hgr : g.req = f.req := by rfl)
    (hgq : g.point = q := by rfl) (hgt : g.todo = f.todo := by rfl) : Inv (u.setFrame g) := by
  subst hc
  exact h.moveTo hu (h.follows hpf q hp hb hreset hgc hgr hgq) hgt

/-- From one point of a contract to another of the same. -/
theorem Running.follows_onSide (h : Running s f) {use : Use} (hf : onSide use f.point = true)
    (hg : onSide use g.point = true) (hc : g.cmd = f.cmd) (hr : g.req = f.req) : Follows s.cfg f g := by
  obtain ⟨hhash, hbuild⟩ := not_build_of_onSide hg
  refine h.follows rfl g.point ?_ ⟨hhash, fun hq => absurd hq hbuild⟩
    (fun _ => ⟨?_, fun _ => afterArm_of_onSide hf⟩) hc hr
  · rw [pointOf_onSide hg, ← pointOf_onSide hf]; exact h.point
  · rw [resetPhase_onSide hg, resetPhase_onSide hf]

/-! ## The end of a command -/

/-- The control rules of an idle block (R149, R210). -/
theorem control_of_idle (hi : t.seq = .idle)
    (hm : ¬ (t.h.fsm = .resetting ∨ t.h.fsm = .awaitingPermAddr))
    (ha : t.h.fsm = .ready → t.h.mbxTimeout = t.cfg.mbxInitTimeout) : Control t where
  frame := by simp [hi]
  operation := by simp [hi]
  phase := by simp [hi]
  middle := fun h => absurd h hm
  armed := by simpa [hi] using ha
  rebased := by simp [hi]

/-- An end of another command than RESET that leaves the control state and the timeout alone keeps the
control rules: none of them is in a middle state (R210). -/
theorem Running.control_ended (h : Running s f) (hc : f.cmd ≠ .reset) (hi : t.seq = .idle)
    (hfsm : t.h.fsm = s.h.fsm) (htime : t.h.mbxTimeout = s.h.mbxTimeout) (hcfg : t.cfg = s.cfg) :
    Control t := by
  refine control_of_idle hi (fun hm => hc (h.middle (by rwa [hfsm] at hm))) fun hr => ?_
  rw [htime, hcfg]
  exact h.control.armed (.inl (hfsm ▸ hr))

/-- What a command ends with after steady updates, none of which arms the timeout. -/
theorem settled_ends {c : Instr} (hc : c ≠ .reset) {ps : List Prim} (hps : Steady c ps) (status : Status)
    (what : Returned) (g : Frame) (u : State) :
    let t := settled (Machine.plan (ps ++ [Prim.ends status what]) g u)
    t.seq = .idle ∧ t.h.fsm = u.h.fsm ∧ t.h.mbxTimeout = u.h.mbxTimeout := by
  induction ps generalizing g u with
  | nil => simp
  | cons p ps ih =>
    obtain ⟨⟨hp, hend, hfsm⟩, hrest⟩ := List.forall_mem_cons.1 hps
    have hw := runPrim_writtenBy hp (Machine.plan (ps ++ [Prim.ends status what]) g u)
    have hfsm' : (runPrim p (Machine.plan (ps ++ [Prim.ends status what]) g u)).h.fsm = u.h.fsm := by
      cases p with
      | fsm x => cases hfsm
      | anyBuf i => simp only [runPrim]; split <;> simp
      | hash v => simp only [runPrim]; split <;> simp
      | _ => simp [runPrim]
    have htime : (runPrim p (Machine.plan (ps ++ [Prim.ends status what]) g u)).h.mbxTimeout
        = u.h.mbxTimeout := by
      by_contra hne
      exact hc (hw.mbxTimeout hne)
    obtain ⟨r, hr⟩ := runPrim_busy (plan_seq (ps ++ [Prim.ends status what]) g u) hend
    have heq : runPrim p (Machine.plan (ps ++ [Prim.ends status what]) g u)
        = Machine.plan (ps ++ [Prim.ends status what]) { g with req := r }
          (runPrim p (Machine.plan (ps ++ [Prim.ends status what]) g u)) := by
      simp only [Machine.plan, State.setFrame, ← hr]
    rw [List.cons_append, settled_plan_cons, heq, ← hfsm', ← htime]
    exact ih hrest _ _

/-- Ending another command than RESET, after steady updates, keeps the invariant. -/
theorem Running.ends (h : Running s f) (hc : f.cmd ≠ .reset) (hu : Calm s u) {ps : List Prim}
    (hps : Steady f.cmd ps) {status : Status} (hst : statusAllowed f.cmd status = true)
    (what : Returned) : Inv (Machine.plan (ps ++ [Prim.ends status what]) f u) := by
  obtain ⟨hi, hfsm, htime⟩ := settled_ends hc hps status what f u
  rw [hu.h] at hfsm htime
  exact h.plan hu rfl h.point (hps.planOk_ends hst what)
    (h.control_ended hc hi hfsm htime (by simp [hu.cfg]))

/-- RESET's timeout is armed at a point behind `arm` (R214). -/
theorem Running.armed (h : Running s f) (hc : f.cmd = .reset) (ha : afterArm f.point = true) :
    s.h.mbxTimeout = s.cfg.mbxInitTimeout := h.control.armed (.inr ⟨f, h.seq, hc, ha⟩)

/-- What a failed contract plans is planned for its command (R144, R214). -/
theorem planOk_raiseSteps (hc : usesTransport f.cmd = true) (use : Use) {e : ErrorKind}
    (he : e ∈ transportErrors) : PlanOk f.cmd (raiseSteps f use e) where
  allowed := fun _ => raiseSteps_ok hc use he
  ends := by
    obtain ⟨ps, hps, hends⟩ := raiseSteps_last f use e
    rw [hps, List.dropLast_concat]
    exact hends
  fsm := by
    have hclean : (transportCleanUp f ++ [raise e]).countP Prim.setsFsm ≤ 1 := by
      unfold transportCleanUp
      split <;> simp [List.countP_cons, Prim.setsFsm, Machine.raise]
    cases use with
    | post => exact hclean
    | read =>
      have hany : (scrambleBuffer f ++ scrambleMsg f).countP Prim.setsFsm = 0 := by
        refine List.countP_eq_zero.2 fun p hp => ?_
        have := (scramble_isAny hp).1
        cases p <;> simp_all [Prim.isAny, Prim.setsFsm]
      rw [raiseSteps, List.append_assoc, List.countP_append, hany, Nat.zero_add]
      exact hclean

/-- A failed contract keeps the invariant: RESET leaves `Ready` with the timeout armed (R214), every other
command leaves the control state alone (R172). -/
theorem Running.raise (h : Running s f) {use : Use} (hf : onSide use f.point = true)
    {e : ErrorKind} (he : e ∈ transportErrors) : Inv (transportRaise f use e s) := by
  have hruns : runsSide use f.cmd = true := by rw [← pointOf_onSide hf]; exact h.point
  obtain ⟨hi, _, hh, _⟩ := settled_transportRaise f use e s
  have hcfg : (settled (transportRaise f use e s)).cfg = s.cfg := by simp [transportRaise]
  refine h.plan (.refl s) rfl h.point (planOk_raiseSteps (usesTransport_of_runsSide hruns) use he) ?_
  change Control (settled (transportRaise f use e s))
  by_cases hc : f.cmd = .reset
  · rw [failedHandle, if_pos hc] at hh
    refine control_of_idle hi ?_ fun _ => ?_
    · rw [hh]; simp
    · rw [hh, hcfg]; exact h.armed hc (afterArm_of_onSide hf)
  · rw [failedHandle, if_neg hc] at hh
    exact h.control_ended hc hi (by rw [hh]) (by rw [hh]) hcfg

/-! ## The transport -/

theorem Running.removalTest (h : Running s f) {use : Use} (hf : onSide use f.point = true)
    {goOn : State → State} (hgo : Inv (goOn s)) : Inv (removalTest f use goOn s) := by
  unfold Machine.removalTest
  split
  · exact h.raise hf (by decide)
  · exact hgo

/-- From one point of a contract to another of the same (R143, R144). -/
theorem Running.stay (h : Running s f) (hu : Calm s u) {use : Use} (hf : onSide use f.point = true)
    (hg : onSide use g.point = true) (hc : g.cmd = f.cmd := by rfl) (hr : g.req = f.req := by rfl)
    (ht : g.todo = f.todo := by rfl) : Inv (u.setFrame g) :=
  h.moveTo hu (h.follows_onSide hf hg hc hr) ht

/-- A poll fails, goes on with the awaited bit, or waits (R141, R142). -/
theorem Running.pollTests (h : Running s f) {use : Use} (hf : onSide use f.point = true) (awaited : Bool)
    {onSuccess : State → State} (hsucc : Inv (onSuccess s)) {again : Point} (ha : onSide use again = true) :
    Inv (pollTests f use awaited onSuccess again s) := by
  obtain ⟨e, he, heq⟩ | ⟨_, _, _, heq⟩ | ⟨_, heq⟩ | ⟨k, _, heq⟩ :=
    pollTests_cases f use awaited onSuccess again s <;> rw [heq]
  · exact h.raise hf he
  · exact hsucc
  · exact h.stay (.refl s) hf ha
  · exact h.stay (.refl s) hf ha

@[simp] theorem onSide_lockBudget (use : Use) : onSide use (.lockBudget use) = true := by cases use <;> rfl
@[simp] theorem onSide_lockWrite (use : Use) : onSide use (.lockWrite use) = true := by cases use <;> rfl
@[simp] theorem onSide_lockRead (use : Use) : onSide use (.lockRead use) = true := by cases use <;> rfl
@[simp] theorem onSide_lockTest (use : Use) : onSide use (.lockTest use) = true := by cases use <;> rfl
@[simp] theorem onSide_lockDelay (use : Use) : onSide use (.lockDelay use) = true := by cases use <;> rfl

/-- The encoder's step: the request's words are pending, and WRITE_POSTED is next (R102). -/
theorem Running.stageRequest (h : Running s f) (hp : f.point = .encode) (r : Instr) :
    Inv (stageRequest r f s) := by
  have henc : pointOf f.cmd .encode = true := hp ▸ h.point
  have hpost : pointOf f.cmd .postStart = true := by
    rw [pointOf_onSide (use := .post) rfl]; exact runsSide_of_encode henc
  have hsteady : Steady f.cmd (msgWrites r (encode s.cfg.codes r)) := fun p hp => by
    obtain ⟨i, w, rfl⟩ := msgWrites_isMsg hp
    exact ⟨(pointOf_encode f.cmd).symm.trans henc, rfl, rfl⟩
  unfold Machine.stageRequest
  rw [perform_eq_runNext]
  refine (h.plan (g := { f with point := .postStart, req0 := _, reqLen := _ }) (.refl s) rfl hpost
    hsteady.planOk ?_).runNext
  rw [settled_msgWrites]
  exact h.control_follows (h.follows hp .postStart hpost (by decide) fun _ => by decide)
    (.of_eq rfl rfl rfl rfl)

/-- WRITE_POSTED has returned: the command ends or goes on (R143, R146, R214). -/
theorem Running.afterPost (h : Running s f) (hp : f.point = .postDone) : Inv (afterPost f s) := by
  have hruns : runsSide .post f.cmd = true := by
    rw [← pointOf_onSide (q := .postDone) rfl, ← hp]; exact h.point
  unfold Machine.afterPost
  split
  · rename_i hc
    exact h.ends (by simp [hc]) (.refl s) (ps := []) (by rintro _ ⟨⟩) rfl _
  · rename_i hc
    exact h.go hc (.refl s) hp .await rfl (by decide) fun _ => by decide
  · rename_i hraw hreset
    have hread : pointOf f.cmd .readStart = true := by
      rw [pointOf_onSide (use := .read) rfl]; exact runsSide_read hruns hraw
    exact h.moveTo (.refl s) (h.follows hp .readStart hread (by decide) fun hc => absurd hc hreset) rfl

/-- READ_POSTED has returned: the transport's commands end, the others go on to their decoder (R144, R146,
R214). -/
theorem Running.afterRead (h : Running s f) (hp : f.point = .readDone) : Inv (afterRead f s) := by
  have hruns : runsSide .read f.cmd = true := by
    rw [← pointOf_onSide (q := .readDone) rfl, ← hp]; exact h.point
  unfold Machine.afterRead
  split
  · rename_i hc
    exact h.ends (by simp [hc]) (.refl s) (ps := []) (by rintro _ ⟨⟩) rfl _
  · rename_i hc
    exact h.ends (by simp [hc]) (.refl s) (ps := []) (by rintro _ ⟨⟩) rfl _
  · rename_i hraw hexchange
    exact h.moveTo (.refl s) (h.follows hp .decode (pointOf_decode_of_read hruns hraw hexchange)
      (by decide) fun _ => by decide) rfl

theorem Running.afterLock (h : Running s f) {use : Use} (hf : onSide use f.point = true) :
    Inv (afterLock f use s) := by
  cases use <;> exact h.stay (.refl s) hf rfl

/-- Every step of the transport keeps the invariant. -/
theorem Running.transportStep (h : Running s f) (ht : transportStep f s = .next t) : Inv t := by
  unfold Machine.transportStep at ht
  split at ht
  · rename_i hp
    split at ht <;> cases ht
    exact h.stageRequest hp _
  all_goals cases ht
  all_goals rename_i hp
  · exact h.removalTest (hp ▸ rfl) (h.stay (use := .post) (.refl s) (hp ▸ rfl) rfl)
  · exact h.stay (.refl s) (hp ▸ onSide_lockBudget _) (onSide_lockWrite _)
  · exact h.stay (calm_regWrite _ _ s) (hp ▸ onSide_lockWrite _) (onSide_lockRead _)
  · exact h.stay (calm_regRead _ s) (hp ▸ onSide_lockRead _) (onSide_lockTest _)
  · exact h.pollTests (hp ▸ onSide_lockTest _) _ (h.afterLock (hp ▸ onSide_lockTest _)) (onSide_lockDelay _)
  · exact h.stay (.refl s) (hp ▸ onSide_lockDelay _) (onSide_lockWrite _)
  · exact h.stay (use := .post) (calm_regWrite _ _ s) (hp ▸ rfl) (by split <;> rfl)
  · exact h.stay (use := .post) (calm_regWrite _ _ s) (hp ▸ rfl) rfl
  · exact h.stay (use := .post) (calm_flush s) (hp ▸ rfl) rfl
  · exact h.removalTest (hp ▸ rfl) (h.afterPost hp)
  · exact h.removalTest (hp ▸ rfl) (h.stay (use := .read) (.refl s) (hp ▸ rfl) rfl)
  · exact h.stay (use := .read) (.refl s) (hp ▸ rfl) rfl
  · exact h.stay (use := .read) (calm_regRead _ s) (hp ▸ rfl) rfl
  · exact h.pollTests (hp ▸ rfl) _ (h.stay (use := .read) (.refl s) (hp ▸ rfl) rfl) rfl
  · exact h.stay (use := .read) (.refl s) (hp ▸ rfl) rfl
  · exact h.stay (use := .read) (calm_regRead _ s) (hp ▸ rfl) rfl
  · exact h.stay (use := .read) (calm_storeWord _ _ _ s) (hp ▸ rfl) rfl
  · exact h.removalTest (hp ▸ rfl) (h.stay (use := .read) (.refl s) (hp ▸ rfl) (by split <;> rfl))
  · exact h.stay (use := .read) (calm_regWrite _ _ s) (hp ▸ rfl) rfl
  · exact h.stay (use := .read) (calm_flush s) (hp ▸ rfl) rfl
  · exact h.removalTest (hp ▸ rfl) (h.afterRead hp)

end Running

end Sys2Proof.Machine
end

section
/-!
The invariant at the decoders and at the steps of the commands outside the transport.
-/

namespace Sys2Proof.Machine

open Sys2Proof

section Running

variable {s t u : State} {f g : Frame}

/-! ## The decoders -/

/-- An end behind a write of the control state keeps the invariant: `Stopped` asks nothing, `Ready` the
armed timeout (R149, R210). -/
theorem Running.ends_fsm (h : Running s f) {ps : List Prim} (hps : Steady f.cmd ps) {x : Fsm}
    (hx : primOk f.cmd (.fsm x) = true) {status : Status} (hst : statusAllowed f.cmd status = true)
    (what : Returned)
    (hto : x = .stopped ∨ x = .ready ∧ f.cmd = .reset ∧ afterArm f.point = true)
    (hi : (settled (Machine.plan (ps ++ [Prim.fsm x, .ends status what]) f s)).seq = .idle)
    (hfsm : (settled (Machine.plan (ps ++ [Prim.fsm x, .ends status what]) f s)).h.fsm = x)
    (htime : (settled (Machine.plan (ps ++ [Prim.fsm x, .ends status what]) f s)).h.mbxTimeout
      = s.h.mbxTimeout) :
    Inv (Machine.plan (ps ++ [Prim.fsm x, .ends status what]) f s) := by
  refine h.plan (.refl s) rfl h.point (hps.planOk_fsm hx hst what) (control_of_idle hi ?_ fun hr => ?_)
  · rw [hfsm]
    rcases hto with rfl | ⟨rfl, _⟩ <;> simp
  · rw [hfsm] at hr
    subst hr
    obtain hx | ⟨_, hc, ha⟩ := hto
    · cases hx
    · rw [htime, settled_cfg]
      exact h.armed hc ha

theorem Running.decodeReset (h : Running s f) (hc : f.cmd = .reset) (hp : f.point = .decode)
    (ws : List Word) : Inv (decodeReset f ws s) := by
  have nil : Steady f.cmd [] := steady_nil _
  have hready : Fsm.ready = .stopped ∨ Fsm.ready = .ready ∧ f.cmd = .reset ∧ afterArm f.point = true :=
    .inr ⟨rfl, hc, by rw [hp]; rfl⟩
  have ok {p : Prim} (hp : primOk .reset p = true) : primOk f.cmd p = true := by rwa [hc]
  have fails : Inv (Machine.plan [.macValid false, .fsm .ready, Machine.raise .invalidMacAddr] f s) :=
    h.ends_fsm (nil.cons (ok (p := .macValid false) rfl)) (ok rfl) (by rw [hc]; rfl) _ hready
      (by simp) (by simp) (by simp)
  unfold Machine.decodeReset
  split
  · exact h.ends_fsm (((nil.cons (ok (p := .macValid true) rfl)).cons (ok (p := .filterType _) rfl)).cons
      (ok (p := .permAddr _) rfl)) (ok rfl) rfl _ hready (by simp) (by simp) (by simp)
  · exact fails
  · exact fails

section Operations

variable (h : Running s f) (ws : List Word)
include h

theorem Running.decodeSetMac {addr : MacAddr} (hc : f.cmd = .setMac addr) :
    Inv (decodeSetMac addr f ws s) := by
  have nil : Steady f.cmd [] := steady_nil _
  unfold Machine.decodeSetMac
  split
  · exact h.ends (by simp [hc]) (.refl s) (nil.cons (p := .curFromPerm) (by rw [hc]; rfl))
      (by rw [hc]; rfl) _
  · exact h.ends (by simp [hc]) (.refl s) (nil.cons (p := .curAddr addr) (by rw [hc]; rfl)) rfl _
  · exact h.ends (by simp [hc]) (.refl s) nil (by rw [hc]; rfl) _

theorem Running.decodeUninspected (hc : f.cmd ≠ .reset) : Inv (decodeUninspected f ws s) :=
  h.ends hc (.refl s) (steady_nil _) rfl _

theorem Running.decodeSetMacvlan {index : Word} {addr : MacAddr} (hc : f.cmd = .setMacvlan index addr) :
    Inv (decodeSetMacvlan f ws s) := by
  unfold Machine.decodeSetMacvlan
  split <;> exact h.ends (by simp [hc]) (.refl s) (steady_nil _) (by rw [hc]; rfl) _

theorem Running.decodeGetReta (hc : f.cmd = .getReta) : Inv (decodeGetReta f ws s) := by
  have hwrites (es : List (BitVec 2)) (k : Nat) : Steady f.cmd (retaWrites k es) := by
    induction es generalizing k with
    | nil => exact steady_nil _
    | cons e es ih => exact (ih (k + 1)).cons (p := .reta k e) (by rw [hc]; rfl)
  unfold Machine.decodeGetReta
  split
  · exact h.ends (by simp [hc]) (.refl s) (steady_nil _) (by rw [hc]; rfl) _
  · exact h.ends (by simp [hc]) (.refl s) (hwrites _ 0) rfl _
  · exact h.ends (by simp [hc]) (.refl s) (steady_nil _) (by rw [hc]; rfl) _

theorem Running.decodeGetRssKey (hc : f.cmd = .getRssKey) : Inv (decodeGetRssKey f ws s) := by
  have hkey : primOk f.cmd (.rssKey (keyBytes (payloadWords Config.rssKeyWords ws))) = true := by
    refine Bool.and_eq_true_iff.2 ⟨decide_eq_true hc, decide_eq_true ?_⟩
    rw [keyBytes_length, payloadWords, List.length_map, List.length_range]
    rfl
  unfold Machine.decodeGetRssKey
  split
  · exact h.ends (by simp [hc]) (.refl s) (steady_nil _) (by rw [hc]; rfl) _
  · exact h.ends (by simp [hc]) (.refl s) ((steady_nil _).cons hkey) rfl _
  · exact h.ends (by simp [hc]) (.refl s) (steady_nil _) (by rw [hc]; rfl) _

theorem Running.decodeNegotiate {version : Word} (hc : f.cmd = .negotiateApi version) :
    Inv (decodeNegotiate f ws s) := by
  unfold Machine.decodeNegotiate
  split
  · exact h.ends (by simp [hc]) (.refl s) (steady_nil _) (by rw [hc]; rfl) _
  · exact h.ends (by simp [hc]) (.refl s) ((steady_nil _).cons (p := .apiVersion _) (by rw [hc]; rfl))
      rfl _
  · exact h.ends (by simp [hc]) (.refl s) (steady_nil _) (by rw [hc]; rfl) _

end Operations

/-- Whichever command interprets a reply, the invariant is kept (R124, R182). -/
theorem Running.interpretReply (h : Running s f) (hp : f.point = .decode) {ws : List Word}
    (ht : interpretReply f ws s = .next t) : Inv t := by
  unfold Machine.interpretReply at ht
  split at ht <;> cases ht <;> rename_i hc
  · exact h.decodeReset hc hp ws
  · exact h.decodeSetMac ws hc
  · exact h.decodeUninspected ws (by simp [hc])
  · exact h.decodeUninspected ws (by simp [hc])
  · exact h.decodeSetMacvlan ws hc
  · exact h.decodeGetReta ws hc
  · exact h.decodeGetRssKey ws hc
  · exact h.decodeNegotiate ws hc

/-- An operation interprets its reply at the decode point and runs the transport elsewhere (R146). -/
theorem Running.operation (h : Running s f) {interpret : Frame → List Word → State → State} {t : State}
    (hi : f.point = .decode → Inv (interpret f s.msg s)) (ht : operation interpret f s = .next t) :
    Inv t := by
  by_cases hp : f.point = .decode
  · rw [operation_decode hp] at ht
    cases ht
    exact hi hp
  · rw [operation_transport hp] at ht
    exact h.transportStep ht

/-! ## The steps of the other commands -/

/-- The control rules of a running RESET (R211, R214). -/
theorem control_of_reset (ht : t.seq = .busy g) (hc : g.cmd = .reset) (hok : g.ok t.cfg = true)
    (hphase : t.h.fsm = resetPhase g.point)
    (harm : afterArm g.point = true →
      t.h.mbxTimeout = t.cfg.mbxInitTimeout ∧ t.h.apiVersion = t.cfg.apiBase) : Control t := by
  have hready : t.h.fsm ≠ .ready := by
    rw [hphase]
    unfold resetPhase
    split <;> simp
  constructor <;> simp only [ht, Seq.busy.injEq, forall_eq', exists_eq_left']
  case frame => exact hok
  case operation => intro ho; rw [hc] at ho; cases ho
  case phase => exact fun _ => hphase
  case middle => exact fun _ => hc
  case armed => rintro (hr | ⟨_, ha⟩)
                · exact absurd hr hready
                · exact (harm ha).1
  case rebased => exact fun _ ha => (harm ha).2

theorem Running.stopStep (h : Running s f) (hc : f.cmd = .stop) (ht : stopStep f s = .next t) :
    Inv t := by
  unfold Machine.stopStep at ht
  split at ht <;> cases ht <;> rename_i hp
  · exact h.go hc (calm_regRead _ s) hp .txWrite rfl (by decide) (by rintro ⟨⟩)
  · exact h.go hc (calm_regWrite _ _ s) hp .rxRead rfl (by decide) (by rintro ⟨⟩)
  · exact h.go hc (calm_regRead _ s) hp .rxWrite rfl (by decide) (by rintro ⟨⟩)
  · have hnext : stopNext (f.i + 1) s = .txRead ∨ stopNext (f.i + 1) s = .maskWrite := by
      unfold stopNext
      split <;> simp
    rcases hnext with hn | hn <;> rw [hn]
    · exact h.go hc (calm_regWrite _ _ s) hp .txRead rfl (by decide) (by rintro ⟨⟩)
    · exact h.go hc (calm_regWrite _ _ s) hp .maskWrite rfl (by decide) (by rintro ⟨⟩)
  · exact h.go hc (calm_regWrite _ _ s) hp .stopFlush rfl (by decide) (by rintro ⟨⟩)
  · exact h.go hc (calm_flush s) hp .stopDone rfl (by decide) (by rintro ⟨⟩)
  · rw [perform_eq_runNext]
    exact (h.ends_fsm ((steady_nil _).cons (p := .stopped true) (by rw [hc]; rfl)) (by rw [hc]; rfl) rfl _
      (.inl rfl) (by simp) (by simp) (by simp)).runNext

/-- The tests of the reset indicator end RESET, go on or wait (R214). -/
theorem Running.resetTests (h : Running s f) (hc : f.cmd = .reset) (hp : f.point = .rstTest) :
    Inv (resetTests f s) := by
  have fails {e : ErrorKind} (he : statusAllowed .reset (.error e) = true) : Inv (resetFails f e s) :=
    h.ends_fsm ((steady_nil _).cons (p := .macValid false) (by rw [hc]; rfl)) (by rw [hc]; rfl)
      (by rwa [hc]) _ (.inl rfl) (by simp) (by simp) (by simp)
  unfold Machine.resetTests
  split
  · exact fails rfl
  · split
    · exact h.go hc (.refl s) hp .arm rfl (by decide) fun _ => by decide
    · split
      · exact h.go hc (.refl s) hp .rstDelay rfl (by decide) fun _ => by decide
      · split
        · exact fails rfl
        · exact h.go hc (.refl s) hp .rstDelay rfl (by decide) fun _ => by decide

/-- RESET arms the timeout and sets the version back before it builds its request (R24, R214). -/
theorem Running.arm (h : Running s f) (hc : f.cmd = .reset) (hp : f.point = .arm) :
    Inv (perform [.mbxTimeout s.cfg.mbxInitTimeout, .apiVersion s.cfg.apiBase]
      { f with point := .encode } s) := by
  have hpoint : pointOf f.cmd .encode = true := by rw [hc]; rfl
  have hsteady : Steady f.cmd [.mbxTimeout s.cfg.mbxInitTimeout, .apiVersion s.cfg.apiBase] :=
    ((steady_nil _).cons (by rw [hc]; rfl)).cons (by rw [hc]; rfl)
  have hphase := h.control.phase f h.seq hc
  rw [hp] at hphase
  rw [perform_eq_runNext]
  refine (h.plan (g := { f with point := .encode }) (.refl s) rfl hpoint hsteady.planOk ?_).runNext
  simp only [settled_plan_mbxTimeout, settled_plan_apiVersion, settled_plan_nil]
  exact control_of_reset rfl hc (h.frame_ok hp .encode hpoint (by decide)) hphase fun _ => ⟨rfl, rfl⟩

/-- RESET waits for the permanent address (R211, R214). -/
theorem Running.await (h : Running s f) (hc : f.cmd = .reset) (hp : f.point = .await) :
    Inv (perform [.fsm .awaitingPermAddr] { f with point := .replySettle } s) := by
  have hpoint : pointOf f.cmd .replySettle = true := by rw [hc]; rfl
  have hplan : PlanOk f.cmd [.fsm .awaitingPermAddr] := by rw [hc]; constructor <;> decide
  have harmed : afterArm f.point = true := by rw [hp]; rfl
  rw [perform_eq_runNext]
  refine (h.plan (g := { f with point := .replySettle }) (.refl s) rfl hpoint hplan ?_).runNext
  simp only [settled_plan_fsm, settled_plan_nil]
  exact control_of_reset rfl hc (h.frame_ok hp .replySettle hpoint (by decide)) rfl
    fun _ => ⟨h.armed hc harmed, h.control.rebased f h.seq hc harmed⟩

theorem Running.resetStep (h : Running s f) (hc : f.cmd = .reset)
    (ht : resetStep f s = .next t) : Inv t := by
  unfold Machine.resetStep at ht
  split at ht
  case h_11 => exact h.transportStep ht
  all_goals cases ht
  all_goals rename_i hp
  · exact h.go hc (calm_regWrite _ _ s) hp .ctrlFlush rfl (by decide) fun _ => by decide
  · exact h.go hc (calm_flush s) hp .settle rfl (by decide) fun _ => by decide
  · exact h.go hc (.refl s) hp .rstSample rfl (by decide) fun _ => by decide
  · exact h.go hc (calm_regRead _ s) hp .rstTest rfl (by decide) fun _ => by decide
  · exact h.resetTests hc hp
  · exact h.go hc (.refl s) hp .rstSample rfl (by decide) fun _ => by decide
  · exact h.arm hc hp
  · exact h.await hc hp
  · exact h.go hc (.refl s) hp .readStart rfl (by decide) fun _ => by decide
  · exact h.decodeReset hc hp _

/-- A `return` or `raise` behind steady updates, the first of which is made now. -/
theorem Running.performEnds (h : Running s f) (hc : f.cmd ≠ .reset) (hu : Calm s u) {ps : List Prim}
    (hps : Steady f.cmd ps) {status : Status} (hst : statusAllowed f.cmd status = true)
    (what : Returned) : Inv (perform (ps ++ [Prim.ends status what]) f u) := by
  rw [perform_eq_runNext]
  exact (h.ends hc hu hps hst what).runNext

theorem Running.startStep (h : Running s f) (hc : f.cmd = .start)
    (ht : startStep f s = .next t) : Inv t := by
  unfold Machine.startStep at ht
  split at ht <;> cases ht
  exact h.performEnds (by simp [hc]) (.refl s) ((steady_nil _).cons (p := .stopped false) (by rw [hc]; rfl))
    rfl _

theorem Running.initStep (h : Running s f) (hc : f.cmd = .init)
    (ht : initStep f s = .next t) : Inv t := by
  unfold Machine.initStep at ht
  split at ht <;> cases ht
  exact h.performEnds (by simp [hc]) (.refl s) (((steady_nil _).cons (p := .curFromPerm)
    (by rw [hc]; rfl)).cons (p := .stopped false) (by rw [hc]; rfl)) rfl _

theorem Running.readHandleStep (h : Running s f) {field : HandleField} (hc : f.cmd = .readHandle field)
    (ht : readHandleStep field f s = .next t) : Inv t := by
  have hr : f.cmd ≠ .reset := by simp [hc]
  unfold Machine.readHandleStep at ht
  split at ht
  · split at ht <;> cases ht
    · exact h.performEnds hr (calm_readPermAddr s) (steady_nil _) rfl _
    · exact h.performEnds hr (.refl s) (steady_nil _) rfl _
  · cases ht

/-- The diagnostic of one hash is one MTA_VECTOR and UPDATE_MC may make (R175, R271). -/
theorem steady_diagnose {c : Instr} (hc : ∀ d, primOk c (.emit d) = true) (filterType : Word) :
    Steady c (diagnose filterType) := by
  unfold diagnose
  split
  · exact steady_nil c
  · exact (steady_nil c).cons (hc _)

theorem Running.mtaVectorStep (h : Running s f) {addr : MacAddr} {filterType : Word}
    (hc : f.cmd = .mtaVector addr filterType)
    (ht : mtaVectorStep addr filterType f s = .next t) : Inv t := by
  unfold Machine.mtaVectorStep at ht
  split at ht <;> cases ht
  exact h.performEnds (by simp [hc]) (.refl s) (steady_diagnose (fun _ => by rw [hc]; rfl) _) rfl _

theorem Running.hashLoop (h : Running s f) {list : List MacAddr} (hc : f.cmd = .updateMc list)
    (hp : f.point = .hash) :
    Inv (Machine.plan (hashSteps list s.h.mcFilterType) { f with point := .encode } s) := by
  have hreq : f.req = some (.setMulticastReq []) :=
    ((f.ok_iff s.cfg).1 (h.control.frame f h.seq)).2.1 hp
  have hpoint : pointOf f.cmd .encode = true := by rw [hc]; rfl
  have hsteady : Steady f.cmd (hashSteps list s.h.mcFilterType) := fun p hp => by
    obtain ⟨a, _, hp⟩ := List.mem_flatMap.1 hp
    rcases List.mem_append.1 hp with hp | hp
    · exact steady_diagnose (fun _ => by rw [hc]; rfl) _ p hp
    · rw [List.mem_singleton.1 hp, hc]
      exact ⟨rfl, rfl, rfl⟩
  refine h.plan (g := { f with point := .encode }) (.refl s) rfl hpoint hsteady.planOk ?_
  rw [hashSteps, settled_hashSteps _ _ [] { f with point := .encode } s hreq]
  refine h.control_follows (f := f) ⟨rfl, (Frame.ok_iff _ _).2 ⟨hpoint, by simp, ?_, by simp⟩, ?_, ?_⟩
    (.of_eq rfl rfl rfl rfl)
  · rintro r ⟨⟩
    simp [Instr.group, Instr.wellFormed]
  · simp [hc]
  · simp [hc]

theorem Running.updateMcStep (h : Running s f) {list : List MacAddr} (hc : f.cmd = .updateMc list)
    (ht : updateMcStep list f s = .next t) : Inv t := by
  unfold Machine.updateMcStep at ht
  split at ht
  · rename_i hp
    cases ht
    exact h.hashLoop hc hp
  · exact h.operation (fun _ => h.decodeUninspected _ (by simp [hc])) ht

theorem Running.checkLinkStep (h : Running s f) (hc : f.cmd = .checkLink)
    (ht : checkLinkStep f s = .next t) : Inv t := by
  have hr : f.cmd ≠ .reset := by simp [hc]
  have nil : Steady f.cmd [] := steady_nil _
  have fails {e : ErrorKind} (he : statusAllowed .checkLink (.error e) = true) :
      Inv (Machine.plan (linkError e) f s) :=
    h.ends hr (.refl s) ((nil.cons (p := .linkSpeed .unknown) (by rw [hc]; rfl)).cons
      (p := .linkUp false) (by rw [hc]; rfl)) (by rwa [hc]) _
  unfold Machine.checkLinkStep at ht
  split at ht <;> cases ht <;> rename_i hp
  · exact h.go hc (calm_regRead _ s) hp .indicatorTest rfl (by decide) (by rintro ⟨⟩)
  · split
    · exact fails rfl
    · split
      · exact fails rfl
      · exact h.go hc (.refl s) hp .linksRead rfl (by decide) (by rintro ⟨⟩)
  · exact h.go hc (calm_regRead _ s) hp .linksTest rfl (by decide) (by rintro ⟨⟩)
  · split
    · exact fails rfl
    · have hspeed : Steady f.cmd [decodeSpeed s.cfg.window (speedField s.cfg.window f.v)] := by
        unfold decodeSpeed
        rw [hc]
        split_ifs <;> exact (steady_nil _).cons rfl
      exact h.ends hr (.refl s) (hspeed.cons (p := .linkUp _) (by rw [hc]; rfl)) rfl _

theorem Running.checkForRstStep (h : Running s f) {mailboxId : Nat} (hc : f.cmd = .checkForRst mailboxId)
    (ht : checkForRstStep f s = .next t) : Inv t := by
  have hr : f.cmd ≠ .reset := by simp [hc]
  unfold Machine.checkForRstStep at ht
  split at ht <;> cases ht <;> rename_i hp
  · exact h.go hc (calm_regRead _ s) hp .indicatorTest rfl (by decide) (by rintro ⟨⟩)
  · exact h.performEnds hr (.refl s) (steady_nil _) rfl _

end Running

end Sys2Proof.Machine
end

section
/-!
The invariant at admission, at the execution of every instruction, and so at every step.
-/

namespace Sys2Proof.Machine

open Sys2Proof

/-! ## Admission (R35, R170, R212) -/

/-- Accepting a command other than RESET keeps the invariant: its first frame is legal, and an operation
is accepted in `Ready` only (R170, R210). -/
theorem Inv.accept {s : State} (h : Inv s) (hi : s.seq = .idle) {g : Frame} (hok : g.ok s.cfg = true)
    (hc : g.cmd ≠ .reset) (hop : isOperation g.cmd = true → s.h.fsm = .ready) (ht : g.todo = []) :
    Inv (accept g s) := by
  have hcontrol : Control s := by rw [← settled_idle hi]; exact h.control
  have hmiddle : ¬ (s.h.fsm = .resetting ∨ s.h.fsm = .awaitingPermAddr) := fun hm => by
    obtain ⟨f, hf, _⟩ := h.middle hm
    rw [hi] at hf
    cases hf
  have hplan : Machine.accept g s = plan [] g (hostReceive s) := by
    simp [Machine.accept, plan, State.setFrame, hostReceive, ← ht]
  rw [hplan]
  refine inv_plan ((calm_hostReceive s).static h.static) ((g.ok_iff s.cfg).1 hok).1 (steady_nil _).planOk
    (fun hm => absurd hm hmiddle) ?_
  rw [settled_plan_nil, ← hplan]
  constructor <;> simp only [accept_seq, accept_h, accept_cfg, Seq.busy.injEq, forall_eq', exists_eq_left']
  case frame => exact hok
  case operation => exact hop
  case phase => exact fun hr => absurd hr hc
  case middle => exact fun hm => absurd hm hmiddle
  case armed => exact fun hr => hcontrol.armed (.inl (hr.resolve_right fun hr => hc hr.1))
  case rebased => exact fun hr => absurd hr hc

/-- Accepting RESET leads to `Resetting` (R211, R214). -/
theorem Inv.acceptReset {s : State} (h : Inv s) : Inv (Machine.accept
    { Frame.start .reset .ctrlWrite (some .resetReq) 0 with todo := [.fsm .resetting] } s) := by
  have hplan : PlanOk .reset [.fsm .resetting] := by constructor <;> decide
  refine inv_plan (g := Frame.start .reset .ctrlWrite (some .resetReq) 0) (u := hostReceive s)
    ((calm_hostReceive s).static h.static) rfl hplan (fun _ => rfl) ?_
  rw [settled_plan_fsm, settled_plan_nil]
  exact control_of_reset rfl rfl rfl rfl (by rintro ⟨⟩)

theorem Inv.refuse {s : State} (h : Inv s) : Inv (refuse s) := h.of_calm (calm_refuse s) rfl

/-- A command with an admission condition is accepted or refused (R147, R212, R260). -/
theorem Inv.admitIf {s t : State} (h : Inv s) (c : Prop) [Decidable c] (ht : c → Inv t) :
    Inv (if c then t else Machine.refuse s) := by
  split
  · exact ht ‹c›
  · exact h.refuse

/-- An operation is accepted in `Ready` or refused (R170). -/
theorem Inv.admitReady {s : State} (h : Inv s) (hi : s.seq = .idle) {g : Frame} (hok : g.ok s.cfg = true)
    (hc : g.cmd ≠ .reset := by rintro ⟨⟩) (ht : g.todo = [] := by rfl) : Inv (admitReady g s) :=
  h.admitIf _ fun hready => h.accept hi hok hc (fun _ => hready) ht

/-- A query that is not supported ends at once (R178, R181). -/
theorem Inv.admitQuery {s : State} (h : Inv s) (hi : s.seq = .idle) {g : Frame} (hok : g.ok s.cfg = true)
    (hc : g.cmd ≠ .reset := by rintro ⟨⟩) (ht : g.todo = [] := by rfl) : Inv (admitQuery g s) := by
  have hsettled : settled s = s := settled_idle hi
  unfold Machine.admitQuery
  split
  · exact h.admitReady hi hok hc ht
  · refine (Calm.static ⟨quiet_finish _ s, rfl, rfl, id⟩ h.static).inv_idle rfl ?_
    rw [settled_finish]
    exact (hsettled ▸ h.control).of_same ⟨hi.symm, rfl, rfl, rfl, rfl⟩

/-! ## The step -/

/-- Every command keeps the invariant if its admission and its own steps do (R35, R83). -/
theorem Inv.command {i : Instr} {offer : State → State} {body : Frame → State → Outcome} {s t : State}
    (hs : Inv s) (h : command i offer body s = .next t) (ho : s.seq = .idle → Inv (offer s))
    (hb : ∀ f, Running s f → f.cmd = i → body f s = .next t → Inv t) : Inv t := by
  obtain ⟨hi, ho'⟩ | ⟨f, _, _, _, hn⟩ | ⟨f, hf, hc, ht, hn⟩ | ⟨f, _, _, hn⟩ := command_cases h
  · cases ho'; exact ho hi
  · cases hn; exact hs.runNext
  · exact hb f ⟨hs, hf, ht⟩ hc hn.symm
  · cases hn; exact hs.refuse

theorem Inv.requestStep {r : Instr} {s t : State} (hs : Inv s) (h : requestStep r s = .next t) : Inv t := by
  unfold Machine.requestStep at h
  split at h
  · cases h; exact hs.refuse
  · rename_i f hf
    split at h <;> cases h
    · rename_i hat
      exact Running.stageRequest ⟨hs, hf, hat.1⟩ hat.2.1 r
    · exact hs.refuse

theorem Inv.replyStep {r : Instr} {s t : State} (hs : Inv s) (h : replyStep r s = .next t) : Inv t := by
  unfold Machine.replyStep at h
  split at h
  · cases h; exact hs.refuse
  · rename_i f hf
    split at h
    · rename_i hat
      exact Running.interpretReply ⟨hs, hf, hat.1⟩ hat.2 h
    · cases h; exact hs.refuse

/-- The request SET_MACVLAN sends is well-formed when its index fits (R114, R177). -/
theorem macvlanRequest_wellFormed {p : Config.Params} {index : Word} (h : indexOk p index = true)
    (addr : MacAddr) : (macvlanRequest index addr).wellFormed p = true := by
  refine Bool.and_eq_true_iff.2 ⟨h, ?_⟩
  by_cases hi : index = 0#32 <;> simp [hi]

/-- Executing any instruction keeps the invariant. -/
theorem Inv.exec {i : Instr} {s t : State} (hs : Inv s) (h : exec i s = .next t) : Inv t := by
  cases i with
  | resetReq | setMacReq | setVlanReq | setMulticastReq | setMacvlanReq | apiNegotiateReq | getRetaReq
  | getRssKeyReq => exact hs.requestStep h
  | resetAck | setMacAck | setMacNack | apiNegotiateAck | apiNegotiateNack | setMacvlanAck
  | setMacvlanNack | getRetaSuccess | getRetaFailure | getRssKeySuccess | getRssKeyFailure | setVlanAck
  | setVlanNack | setMulticastAck | setMulticastNack => exact hs.replyStep h
  | stop =>
    refine hs.command h (fun hi => hs.accept hi ?_ (by rintro ⟨⟩) (by rintro ⟨⟩) rfl)
      fun _ hr => hr.stopStep
    unfold stopNext
    split <;> rfl
  | reset =>
    exact hs.command (show execReset s = _ from h) (fun hi => hs.admitIf _ fun _ => hs.acceptReset)
      fun _ hr => hr.resetStep
  | start =>
    exact hs.command h (fun hi => hs.accept hi rfl (by rintro ⟨⟩) (by rintro ⟨⟩) rfl)
      fun _ hr => hr.startStep
  | init =>
    exact hs.command h (fun hi => hs.accept hi rfl (by rintro ⟨⟩) (by rintro ⟨⟩) rfl)
      fun _ hr => hr.initStep
  | setMac addr =>
    exact hs.command h (fun hi => hs.admitReady hi rfl)
      fun _ hr hc => hr.operation fun _ => hr.decodeSetMac _ hc
  | setVlan vlanId vlanOn =>
    exact hs.command h (fun hi => hs.admitReady hi rfl)
      fun _ hr hc => hr.operation fun _ => hr.decodeUninspected _ (by simp [hc])
  | mtaVector addr filterType =>
    exact hs.command h (fun hi => hs.accept hi rfl (by rintro ⟨⟩) (by rintro ⟨⟩) rfl)
      fun _ hr => hr.mtaVectorStep
  | updateMc list =>
    exact hs.command h (fun hi => hs.admitReady hi rfl) fun _ hr => hr.updateMcStep
  | setMacvlan index addr =>
    refine hs.command (show execSetMacvlan index addr s = _ from h)
      (fun hi => hs.admitIf _ fun hwf => hs.admitReady hi ?_)
      fun _ hr hc => hr.operation fun _ => hr.decodeSetMacvlan _ hc
    refine (Frame.ok_iff _ _).2 ⟨rfl, by rintro ⟨⟩, ?_, by rintro ⟨⟩⟩
    rintro r ⟨⟩
    exact ⟨rfl, macvlanRequest_wellFormed hwf addr⟩
  | getReta =>
    exact hs.command h (fun hi => hs.admitQuery hi rfl)
      fun _ hr hc => hr.operation fun _ => hr.decodeGetReta _ hc
  | getRssKey =>
    exact hs.command h (fun hi => hs.admitQuery hi rfl)
      fun _ hr hc => hr.operation fun _ => hr.decodeGetRssKey _ hc
  | negotiateApi version =>
    exact hs.command h (fun hi => hs.admitReady hi rfl)
      fun _ hr hc => hr.operation fun _ => hr.decodeNegotiate _ hc
  | checkLink =>
    exact hs.command h (fun hi => hs.accept hi rfl (by rintro ⟨⟩) (by rintro ⟨⟩) rfl)
      fun _ hr => hr.checkLinkStep
  | writePosted msg len mailboxId =>
    exact hs.command (show execWritePosted msg len mailboxId s = _ from h)
      (fun hi => hs.admitIf _ fun _ => hs.accept hi rfl (by rintro ⟨⟩) (by rintro ⟨⟩) rfl)
      fun _ hr _ => hr.transportStep
  | readPosted len mailboxId =>
    exact hs.command (show execReadPosted len mailboxId s = _ from h)
      (fun hi => hs.admitIf _ fun _ => hs.accept hi rfl (by rintro ⟨⟩) (by rintro ⟨⟩) rfl)
      fun _ hr _ => hr.transportStep
  | exchange reqLen rspLen =>
    exact hs.command (show execExchange reqLen rspLen s = _ from h)
      (fun hi => hs.admitIf _ fun _ => hs.accept hi rfl (by rintro ⟨⟩) (by rintro ⟨⟩) rfl)
      fun _ hr _ => hr.transportStep
  | checkForRst mailboxId =>
    exact hs.command (show execCheckForRst mailboxId s = _ from h)
      (fun hi => hs.admitIf _ fun _ => hs.accept hi rfl (by rintro ⟨⟩) (by rintro ⟨⟩) rfl)
      fun _ hr => hr.checkForRstStep
  | readHandle field =>
    exact hs.command h (fun hi => hs.accept hi rfl (by rintro ⟨⟩) (by rintro ⟨⟩) rfl)
      fun _ hr => hr.readHandleStep

/-- Settles O52: the block's step is an execution, every other move is calm. -/
theorem everyStepKeepsTheInvariant : Obligations.EveryStepKeepsTheInvariant := by
  intro s t hs hstep
  have hu : Inv (nextMove s).2 := hs.of_calm (calm_nextMove s) (nextMove_seq s)
  simp only [step] at hstep
  generalize (nextMove s).2 = u at hu hstep
  split at hstep
  · split at hstep
    · exact hu.exec hstep
    · cases hstep; exact hu
  · split at hstep
    · exact hu.exec hstep
    · cases hstep; exact hu.refuse
  · cases hstep; exact hu.of_calm (calm_hostReceive u) rfl
  · cases hstep; exact hu.of_calm (calm_pfMove _ u) (pfMove_sameBlock _ u).seq
  · cases hstep; exact hu.of_calm (calm_devMove _ u) (devMove_sameBlock _ u).seq

end Sys2Proof.Machine
end

section
/-!
What decoding keeps of the words it reads: word 0 is the encoder's for the operands read from it (R101 to
R104), and the message takes exactly its payload from the words behind it. What every request's word 0 is.
-/

namespace Sys2Proof.Machine

open Sys2Proof

variable {c : Config.Codes}

/-! ## Word 0 from the operands read from it (R101 to R104) -/

/-- The operand `FLAG_CTS` of a word 0 stands for the word's own bit (R104). -/
theorem flagCts_of_ctsBit (hc : c.Ok) (w : Word) :
    (if ctsBit c w then c.flagCts else 0#32) = w &&& c.flagCts := by
  refine BitVec.eq_of_getLsbD_eq fun k _ => ?_
  rw [BitVec.getLsbD_and, flagCts_getLsbD hc]
  by_cases hk : k = c.ctsBit
  · subst hk
    cases h : w.getLsbD c.ctsBit <;> simp [ctsBit, hasBit, h, flagCts_getLsbD hc]
  · cases ctsBit c w <;> simp [hk, flagCts_getLsbD hc]

/-- The operand `info` is what the word 0 `w` holds in the bits `free` of its info field. -/
def InfoRead (c : Config.Codes) (w info free : Word) : Prop := info <<< c.infoShift = w &&& free

theorem infoRead_none (w : Word) : InfoRead c w 0#32 0#32 := by simp [InfoRead]

theorem infoRead_vlan (hc : c.Ok) (w : Word) : InfoRead c w (ofBit (vlanOnBit c w)) (vlanInfo c) := by
  refine BitVec.eq_of_getLsbD_eq fun k hk => ?_
  rw [BitVec.getLsbD_and, vlanInfo_getLsbD hc, BitVec.getLsbD_shiftLeft, ofBit_getLsbD]
  by_cases h : k = c.infoShift
  · subst h
    simp [vlanOnBit, hasBit, hk]
  · simp [h]
    omega

theorem infoRead_count (hc : c.Ok) (w : Word) :
    InfoRead c w ((countField c w).setWidth 32) (countInfo c) := by
  refine BitVec.eq_of_getLsbD_eq fun k hk => ?_
  rw [BitVec.getLsbD_and, countInfo_getLsbD hc, BitVec.getLsbD_shiftLeft]
  by_cases h : c.infoShift ≤ k
  · have hback : c.infoShift + (k - c.infoShift) = k := by omega
    simp [countField, hk, h, hback]
    grind
  · simp [h]

theorem infoRead_index (hc : c.Ok) (w : Word) : InfoRead c w (infoField c w) c.infoMask := by
  refine BitVec.eq_of_getLsbD_eq fun k hk => ?_
  rw [BitVec.getLsbD_and, BitVec.getLsbD_shiftLeft, infoField, BitVec.getLsbD_ushiftRight,
    BitVec.getLsbD_and, infoMask_getLsbD hc, infoMask_getLsbD hc]
  by_cases h : c.infoShift ≤ k
  · have hback : c.infoShift + (k - c.infoShift) = k := by omega
    simp [hk, h, hback]
  · simp [h]

/-- A word is its part outside a mask and its part inside. -/
theorem and_not_or_and (w m : Word) : w &&& ~~~m ||| w &&& m = w := by
  ext k hk
  simp
  grind

/-- A word 0 that matches a request row is the encoder's (R102). -/
theorem mk0_of_matches {w op info free : Word} (hw : w &&& ~~~free = op) (hi : InfoRead c w info free) :
    mk0 c op info = w := by
  rw [mk0, hi, ← hw, and_not_or_and]

/-- A word 0 that matches a reply row is the encoder's (R104). -/
theorem replyWord_of_matches (hc : c.Ok) {w op info free flag : Word}
    (hw : w &&& ~~~(c.flagCts ||| free) = op ||| flag) (hi : InfoRead c w info free) :
    replyWord c op info flag (ctsBit c w) = w :=
  calc replyWord c op info flag (ctsBit c w)
      = (op ||| flag) ||| (w &&& free ||| w &&& c.flagCts) := by
        rw [replyWord, mk0, hi, flagCts_of_ctsBit hc]; ac_rfl
    _ = w &&& ~~~(c.flagCts ||| free) ||| w &&& (c.flagCts ||| free) := by
        rw [hw]; ext k hk; simp; grind
    _ = w := and_not_or_and _ _

/-! ## What a row takes from the words -/

/-- The message `i` was read from the word 0 `w` and the words `ws` behind it, and left `rest`: it is
well formed, its word 0 is `w`, and `rest` is what follows as many words as its payload has. -/
structure ReadFrom (p : Config.Params) (w : Word) (ws : List Word) (i : Instr) (rest : List Word) :
    Prop where
  message : i.group ≠ .command
  wellFormed : i.wellFormed p = true
  words : ∃ payload, encode p.codes i = w :: payload ∧ payload.length ≤ ws.length ∧
    rest = ws.drop payload.length

theorem skipWords_ok {row : MsgRow} {n : Nat} {i j : Instr} {ws rest : List Word}
    (h : skipWords row n i ws = .ok (j, rest)) : n ≤ ws.length ∧ j = i ∧ rest = ws.drop n := by
  unfold skipWords at h
  split at h
  · cases h
  · cases h; exact ⟨by omega, rfl, rfl⟩

theorem unpackVectors_length {n : Nat} {ws : List Word} (h : halfUp n ≤ ws.length) :
    (unpackVectors n ws).length = n := by
  induction n, ws using unpackVectors.induct with
  | case1 => rfl
  | case2 n => simp [halfUp] at h
  | case3 => rfl
  | case4 n w ws ih =>
    have := ih (by simp [halfUp] at h ⊢; omega)
    simp [unpackVectors, this]

theorem readVectors_ok {n : Nat} {i : Instr} {ws rest : List Word}
    (h : readVectors n ws = .ok (i, rest)) : n ≤ Config.mcMax ∧ halfUp n ≤ ws.length ∧
      i = .setMulticastReq (unpackVectors n ws) ∧ rest = ws.drop (halfUp n) := by
  unfold readVectors at h
  split at h
  · cases h
  · split at h
    · cases h
    · cases h; exact ⟨by omega, by omega, rfl, rfl⟩

/-- A reply whose payload is skipped was read from its words if its encoding has word 0 and as long a
payload. -/
theorem ReadFrom.of_skipWords {p : Config.Params} {row : MsgRow} {n : Nat} {i j : Instr} {w : Word}
    {ws rest payload : List Word} (h : skipWords row n j ws = .ok (i, rest)) (hm : j.group ≠ .command)
    (hwf : n ≤ ws.length → j.wellFormed p = true) (henc : encode p.codes j = w :: payload)
    (hlen : n ≤ ws.length → payload.length = n) : ReadFrom p w ws i rest := by
  obtain ⟨hn, rfl, rfl⟩ := skipWords_ok h
  exact ⟨hm, hwf hn, payload, henc, by rwa [hlen hn], by rw [hlen hn]⟩

theorem infoField_indexOk {p : Config.Params} (hc : p.codes.Ok) (w : Word) :
    indexOk p (infoField p.codes w) = true := by
  refine decide_eq_true (Nat.lt_pow_two_of_testBit _ fun k hk => ?_)
  change (infoField p.codes w).getLsbD k = false
  rw [infoField, BitVec.getLsbD_ushiftRight, BitVec.getLsbD_and, infoMask_getLsbD hc]
  simp [hk]

/-! ## Every decoded message was read from its words -/

/-- The row the decoder finds is one the word 0 matches. -/
theorem matches_of_findRow {w : Word} {row : MsgRow} (h : findRow c w = some row) :
    ∃ r ∈ tableRows c, w &&& r.mask = r.pattern ∧ r.row = row := by
  obtain ⟨r, hr, hrow⟩ := Option.map_eq_some_iff.1 h
  exact ⟨r, List.mem_of_find?_eq_some hr, by simpa using List.find?_some hr, hrow⟩

/-- What a row reads from a word 0 that matches it and the words behind it (R106 to R121). -/
theorem readFrom_row {p : Config.Params} (hc : p.codes.Ok) {row : MsgRow} {w : Word}
    (hrow : findRow p.codes w = some row) {ws rest : List Word} {i : Instr}
    (h : readRow p.codes row w ws = .ok (i, rest)) : ReadFrom p w ws i rest := by
  have hw := matches_of_findRow hrow
  simp only [tableRows, requestRows, replyRows, requestRow, replyRow, List.cons_append, List.nil_append,
    List.exists_mem_cons_iff, List.not_mem_nil, false_and, exists_false, or_false] at hw
  have hnone := infoRead_none (c := p.codes) w
  have hvlan := infoRead_vlan hc w
  have hcount := infoRead_count hc w
  have hinfo := infoRead_index hc w
  have hindex := infoField_indexOk hc w
  cases row <;> simp only [reduceCtorEq, and_false, and_true, or_false, false_or] at hw <;>
    simp only [readRow] at h
  case resetReq | getRetaReq | getRssKeyReq =>
    cases h
    exact ⟨by simp [Instr.group], rfl, [], by rw [encode, mk0_of_matches hw hnone], by simp, rfl⟩
  case setMacReq | apiNegotiateReq =>
    split at h <;> cases h
    exact ⟨by simp [Instr.group], rfl, [_, _], by rw [encode, mk0_of_matches hw hnone], by simp, rfl⟩
  case setVlanReq =>
    split at h <;> cases h
    exact ⟨by simp [Instr.group], rfl, [_], by rw [encode, mk0_of_matches hw hvlan], by simp, rfl⟩
  case setMulticastReq =>
    obtain ⟨hmax, hfit, rfl, rfl⟩ := readVectors_ok h
    have hlen := unpackVectors_length hfit
    have hpack : (pack16 ((unpackVectors (countField p.codes w).toNat ws).map widenVector)).length
        = halfUp (countField p.codes w).toNat := by rw [pack16_length, List.length_map, hlen]
    refine ⟨by simp [Instr.group], by simpa [Instr.wellFormed, hlen] using hmax, _, ?_, by rwa [hpack],
      by rw [hpack]⟩
    rw [encode, hlen, BitVec.ofNat_toNat, mk0_of_matches hw hcount]
  case setMacvlanReq =>
    split at h <;> cases h
    refine ⟨by simp [Instr.group], ?_, ?_⟩
    · simp only [Instr.wellFormed, hindex, Bool.true_and, Bool.or_eq_true, decide_eq_true_eq]
      exact (ne_or_eq _ _).imp_right fun h0 => if_pos h0
    · rw [encode, mk0_of_matches hw hinfo]
      split
      · exact ⟨[_, _], rfl, by simp, rfl⟩
      · exact ⟨[_, _], rfl, by simp, rfl⟩
  case resetAck =>
    split at h <;> cases h
    exact ⟨by simp [Instr.group], rfl, [_, _, _], by rw [encode, replyWord_of_matches hc hw hnone], by simp,
      rfl⟩
  case apiNegotiateAck =>
    split at h <;> cases h
    exact ⟨by simp [Instr.group], rfl, [_, _], by rw [encode, replyWord_of_matches hc hw hnone], by simp,
      rfl⟩
  case setMulticastAck | setMulticastNack =>
    cases h
    exact ⟨by simp [Instr.group], rfl, [], by rw [encode, replyWord_of_matches hc hw hcount], by simp, rfl⟩
  case setMacAck | setMacNack | apiNegotiateNack =>
    exact .of_skipWords (payload := [0#32, 0#32]) h (by simp [Instr.group]) (fun _ => rfl)
      (by rw [encode, replyWord_of_matches hc hw hnone]) fun _ => rfl
  case setMacvlanAck | setMacvlanNack =>
    exact .of_skipWords (payload := [0#32, 0#32]) h (by simp [Instr.group]) (fun _ => hindex)
      (by rw [encode, replyWord_of_matches hc hw hinfo]) fun _ => rfl
  case setVlanAck | setVlanNack =>
    exact .of_skipWords (payload := [0#32]) h (by simp [Instr.group]) (fun _ => rfl)
      (by rw [encode, replyWord_of_matches hc hw hvlan]) fun _ => rfl
  case getRetaSuccess | getRssKeySuccess =>
    exact .of_skipWords h (by simp [Instr.group])
      (fun hn => decide_eq_true (by rw [List.length_take, Nat.min_eq_left hn]))
      (by rw [encode, replyWord_of_matches hc hw hnone])
      fun hn => by rw [List.length_take, Nat.min_eq_left hn]
  case getRetaFailure | getRssKeyFailure =>
    exact .of_skipWords h (by simp [Instr.group]) (fun _ => rfl)
      (by rw [encode, replyWord_of_matches hc hw hnone]) fun _ => List.length_replicate

/-- A decoded message was read from the word 0 and the words behind it. -/
theorem readFrom_of_decode {p : Config.Params} (hc : p.codes.Ok) {w : Word} {ws rest : List Word}
    {i : Instr} (h : decode p.codes (w :: ws) = .ok (i, rest)) : ReadFrom p w ws i rest := by
  rw [decode] at h
  split at h
  · cases h
  · rename_i row hrow
    exact readFrom_row hc hrow h

/-- Settles O2: the message read from a word 0 is encoded with that word 0 and its payload's length. -/
theorem decodedMessageKeepsWordZero : Obligations.DecodedMessageKeepsWordZero := by
  intro p ws rest i hc h
  cases ws with
  | nil => cases h
  | cons w ws =>
    obtain ⟨hm, hwf, payload, henc, hlen, hrest⟩ := readFrom_of_decode hc h
    refine ⟨hm, hwf, ?_, ?_, ?_⟩
    · rw [henc]; rfl
    · rw [henc, hrest]; rfl
    · rw [henc]; simpa using hlen

/-! ## Word 0 of a request (R102) -/

namespace WordZero

variable {op info free flag : Word}

theorem info_lt (hw : WordZero c op info free flag) : info.toNat < 2 ^ c.infoWidth :=
  Nat.lt_pow_two_of_testBit _ fun _ hk => hw.info_bit_eq_false hk

/-- Without a verdict no bit of word 0 reaches the flag field (R9 (ii)). -/
theorem mk0_bit_lt (hc : c.Ok) (hw : WordZero c op info free 0#32) {k : Nat}
    (hk : (mk0 c op info).getLsbD k = true) : k < c.infoShift + c.infoWidth := by
  by_contra hge
  have h32 := BitVec.lt_of_getLsbD hk
  rw [← replyWord_noFlag, replyWord_getLsbD hc _ _ _ _ h32, opcode_bit_eq_false hc hw.opcode (by omega),
    hw.info_bit_eq_false (by omega)] at hk
  simp at hk

theorem mk0_and_flagMask (hc : c.Ok) (hw : WordZero c op info free 0#32) :
    mk0 c op info &&& c.flagMask = 0#32 := by
  refine BitVec.eq_of_getLsbD_eq fun k _ => ?_
  have hlow := hw.mk0_bit_lt hc (k := k)
  have hhigh := flagMask_bit_ge hc (k := k)
  rw [BitVec.getLsbD_and, BitVec.getLsbD_zero, Bool.and_eq_false_iff]
  grind

/-- Every bit of word 0 stands in one of the three fields (R101). -/
theorem mk0_and_reserved (hc : c.Ok) (hw : WordZero c op info free 0#32) :
    mk0 c op info &&& ~~~(c.opcodeMask ||| c.infoMask ||| c.flagMask) = 0#32 := by
  refine BitVec.eq_of_getLsbD_eq fun k hk => ?_
  have hop : (op &&& c.opcodeMask).getLsbD k = op.getLsbD k := by rw [hc.opcodesFit op hw.opcode]
  have hlow := hw.mk0_bit_lt hc (k := k)
  rw [BitVec.getLsbD_and] at hop
  rw [← replyWord_noFlag] at hlow ⊢
  simp only [BitVec.getLsbD_and, BitVec.getLsbD_not, BitVec.getLsbD_or, infoMask_getLsbD hc,
    replyWord_getLsbD hc _ _ _ _ hk] at hlow ⊢
  grind

end WordZero

/-- A well-formed request's word 0 is an opcode and an operand of the info field (R106 to R120). -/
theorem encode_request_head {p : Config.Params} (hc : p.codes.Ok) {i : Instr} (hg : i.group = .request)
    (hwf : i.wellFormed p = true) : ∃ op info free, WordZero p.codes op info free 0#32 ∧
      (encode p.codes i).head? = some (mk0 p.codes op info) := by
  cases i <;> simp only [Instr.group, reduceCtorEq] at hg
  case resetReq => exact ⟨_, _, _, wordZero_none (opReset_mem _) isVerdict_zero, rfl⟩
  case setMacReq => exact ⟨_, _, _, wordZero_none (opSetMacAddr_mem _) isVerdict_zero, rfl⟩
  case apiNegotiateReq => exact ⟨_, _, _, wordZero_none (opApiNegotiate_mem _) isVerdict_zero, rfl⟩
  case getRetaReq => exact ⟨_, _, _, wordZero_none (opGetReta_mem _) isVerdict_zero, rfl⟩
  case getRssKeyReq => exact ⟨_, _, _, wordZero_none (opGetRssKey_mem _) isVerdict_zero, rfl⟩
  case setVlanReq vlanId vlanOn => exact ⟨_, _, _, wordZero_vlan hc vlanOn isVerdict_zero, rfl⟩
  case setMulticastReq vectors =>
    have hlen : vectors.length ≤ 30 := of_decide_eq_true hwf
    exact ⟨_, _, _, wordZero_count hc (by simp; omega) isVerdict_zero, rfl⟩
  case setMacvlanReq index addr =>
    have hindex : index.toNat < 2 ^ p.codes.infoWidth :=
      of_decide_eq_true (Bool.and_eq_true_iff.1 hwf).1
    refine ⟨_, _, _, wordZero_index hc hindex isVerdict_zero, ?_⟩
    rw [encode]
    split <;> rfl

/-- Settles O4: the fields of word 0 by `WordZero`, for the word 0 of each request. -/
theorem requestWordZeroIsMk0 : Obligations.RequestWordZeroIsMk0 := by
  refine ⟨fun _ _ _ => rfl, fun p i hc hg hwf => ?_⟩
  obtain ⟨op, info, free, hw, hhead⟩ := encode_request_head hc hg hwf
  have hword : word0 (encode p.codes i) = mk0 p.codes op info := by
    rw [word0, List.headD_eq_head?_getD, hhead, Option.getD_some]
  refine ⟨⟨op, hw.opcode, info, hw.info_lt, hhead⟩, ?_, ?_⟩
  · rw [hword, hw.mk0_and_flagMask hc]
  · rw [hword, hw.mk0_and_reserved hc]

/-- Settles O5: word 0 of the encoder's words holds the flag in its info field. -/
theorem vlanRequestRoundTrips : Obligations.VlanRequestRoundTrips := by
  refine ⟨fun _ _ _ _ => rfl, fun c vlanId vlanOn hc => ?_⟩
  have hinfo : infoField c (mk0 c c.opSetVlan (ofBit vlanOn)) = ofBit vlanOn := by
    rw [← replyWord_noFlag]
    exact (wordZero_vlan hc vlanOn isVerdict_zero).infoField_eq hc false
  have hon : (infoField c (mk0 c c.opSetVlan (ofBit vlanOn))).getLsbD 0 = vlanOn := by
    rw [hinfo, ofBit_getLsbD, decide_eq_true rfl, Bool.and_true]
  exact Prod.ext (extractLsb'_setWidth_vlanId vlanId) hon

end Sys2Proof.Machine
end

section
/-!
Which words each request row stages at the encode point (R106 to R120), and what READ_HANDLE reads (R130).
-/

namespace Sys2Proof.Machine

open Sys2Proof

/-! ## Request rows -/

/-- A request row is executed as the encoder's step, whichever row it is. -/
theorem exec_request {r : Instr} (hg : r.group = .request) (s : State) : exec r s = requestStep r s := by
  cases r <;> simp only [Instr.group, reduceCtorEq] at hg <;> rfl

/-- A request row at its encode point stages the words it encodes to (R102). -/
theorem exec_request_stages {s : State} {f : Frame} {r : Instr} {ws : List Word} (hs : s.seq = .busy f)
    (ht : f.todo = []) (hp : f.point = .encode) (hr : f.req = some r) (hg : r.group = .request)
    (henc : encode s.cfg.codes r = ws) : ∃ t, exec r s = .next t ∧ settled t = staged s f ws := by
  rw [exec_request hg, ← henc]
  exact requestStep_at hs ht hp hr

@[simp] theorem mk0_zero (c : Config.Codes) (op : Word) : mk0 c op 0#32 = op := by simp [mk0]

theorem mk0_ofBit (c : Config.Codes) (op : Word) (b : Bool) :
    mk0 c op (ofBit b) = op ||| (if b then 1#32 <<< c.infoShift else 0#32) := by
  cases b <;> simp [mk0, ofBit]

/-- Settles O28: each row is staged as it is encoded. -/
theorem plainRequestsAreStaged : Obligations.PlainRequestsAreStaged := by
  intro s f r hs ht hp hr
  refine ⟨?_, ?_, ?_, ?_, ?_⟩
  · rintro rfl
    exact exec_request_stages hs ht hp hr rfl (by rw [encode, mk0_zero])
  · rintro rfl
    exact exec_request_stages hs ht hp hr rfl (by rw [encode, mk0_zero])
  · rintro rfl
    exact exec_request_stages hs ht hp hr rfl (by rw [encode, mk0_zero])
  · rintro v rfl
    exact exec_request_stages hs ht hp hr rfl (by rw [encode, mk0_zero])
  · rintro vlanId vlanOn rfl
    exact exec_request_stages hs ht hp hr rfl (by rw [encode, mk0_ofBit])

/-- An address is packed little-endian into two words (R65). -/
theorem pack48_eq (a : MacAddr) : pack48 a = (a.a3 ++ a.a2 ++ a.a1 ++ a.a0, 0#16 ++ a.a5 ++ a.a4) :=
  packingHelpers.1 a

/-- Settles O29: each row is staged as it is encoded, its address packed by `pack48`. -/
theorem addressRequestsAreStaged : Obligations.AddressRequestsAreStaged := by
  intro s f r hs ht hp hr
  refine ⟨?_, ?_, ?_, ?_⟩
  · rintro a rfl
    exact exec_request_stages hs ht hp hr rfl (by rw [encode, mk0_zero, pack48_eq])
  · rintro x a rfl hx
    exact exec_request_stages hs ht hp hr rfl (by rw [encode, if_neg hx, pack48_eq, mk0])
  · rintro a rfl
    exact exec_request_stages hs ht hp hr rfl (by rw [encode, if_pos rfl, mk0_zero])
  · rintro vs rfl -
    exact exec_request_stages hs ht hp hr rfl rfl

/-! ## Reading the permanent address (R21) -/

theorem drawAddr_eq_drawWords (s : State) :
    drawAddr s = (unpack48 ((drawWords 2 s).1.getD 0 0#32) ((drawWords 2 s).1.getD 1 0#32),
      (drawWords 2 s).2) := rfl

/-- While `H.mac_valid = 0` a read of the permanent address draws one, and changes the draws only. -/
theorem readPermAddr_invalid {s : State} (h : s.h.macValid = false) : ∃ a tape drawn,
    readPermAddr s = (a, { s with tape := tape, drawn := drawn }) := by
  refine ⟨(drawAddr s).1, (drawWords 2 s).2.tape, (drawWords 2 s).2.drawn, ?_⟩
  rw [readPermAddr, if_neg (by simp [h]), drawAddr_eq_drawWords, ← drawWords_eq]

/-- The drawn address is the one packed at the head of the tape, if there is one. -/
theorem readPermAddr_tape {s : State} (h : s.h.macValid = false) {a : MacAddr} {rest : List Word}
    (ht : s.tape = (pack48 a).1 :: (pack48 a).2 :: rest) :
    readPermAddr s = (a, { s with tape := rest }) := by
  have hd : drawWords 2 s = ([(pack48 a).1, (pack48 a).2], { s with tape := rest }) :=
    drawWords_tape (ws := [_, _]) ht
  rw [readPermAddr, if_neg (by simp [h]), drawAddr_eq_drawWords, hd]
  exact Prod.ext (unpack48_pack48 a) rfl

/-! ## READ_HANDLE (R130) -/

/-- A field whose register may be read is returned as it stands. -/
theorem exec_readHandle_valid {s : State} {f : Frame} {r : HandleField} (h : At s f (.readHandle r) .run)
    (hr : r ≠ .permAddr ∨ s.h.macValid = true) :
    exec (.readHandle r) s = .next (ended s s.h ⟨.ok, .handle (handleValue s.h r)⟩) := by
  have hexec : exec (.readHandle r) s = readHandleStep r f s := command_at h _ _
  obtain ⟨-, -, hp, -⟩ := h
  rw [hexec]
  cases r with
  | permAddr =>
    have hv := hr.resolve_left (by simp)
    simp only [readHandleStep, hp, readPermAddr_valid hv]
    rfl
  | _ =>
    simp only [readHandleStep, hp]
    rfl

/-- The permanent address is returned as it is read. -/
theorem exec_readHandle_permAddr {s u : State} {f : Frame} {a : MacAddr}
    (h : At s f (.readHandle .permAddr) .run) (hread : readPermAddr s = (a, u)) :
    exec (.readHandle .permAddr) s = .next (ended u u.h ⟨.ok, .handle (.address a)⟩) := by
  have hexec : exec (.readHandle .permAddr) s = readHandleStep .permAddr f s := command_at h _ _
  obtain ⟨-, -, hp, -⟩ := h
  simp only [hexec, readHandleStep, hp, hread]
  rfl

/-- Settles O20: every register as it stands, the permanent address as it is read. -/
theorem readHandleReturnsRegister : Obligations.ReadHandleReturnsRegister := by
  intro s f r h
  refine ⟨fun hr => ?_, ?_, ?_⟩
  · rw [exec_readHandle_valid h hr]
    cases r <;> rfl
  · rintro rfl hv
    obtain ⟨a, tape, drawn, hread⟩ := readPermAddr_invalid hv
    exact ⟨a, tape, drawn, exec_readHandle_permAddr h hread⟩
  · rintro rfl hv a rest ht
    exact exec_readHandle_permAddr h (readPermAddr_tape hv ht)

end Sys2Proof.Machine
end

section
/-!
How a reply's word 0 is classified (R124): the two comparisons, what they say of the three fields, and the
verdict of every reply row against a request's word 0.
-/

namespace Sys2Proof.Machine

open Sys2Proof

variable {c : Config.Codes}

/-! ## The two comparisons (R124) -/

section Comparisons

variable {w req0 pos neg : Word}

theorem classify_negative (h : w &&& ~~~c.flagCts = req0 ||| neg) :
    classify c w req0 pos neg = .negative := by simp [classify, h]

theorem classify_positive (hn : w &&& ~~~c.flagCts ≠ req0 ||| neg) (h : w &&& ~~~c.flagCts = req0 ||| pos) :
    classify c w req0 pos neg = .positive := by simp only [classify, if_neg hn, if_pos h]

theorem classify_mismatch (hn : w &&& ~~~c.flagCts ≠ req0 ||| neg)
    (hp : w &&& ~~~c.flagCts ≠ req0 ||| pos) : classify c w req0 pos neg = .mismatch := by
  simp only [classify, if_neg hn, if_neg hp]

theorem classify_negative_iff :
    classify c w req0 pos neg = .negative ↔ w &&& ~~~c.flagCts = req0 ||| neg := by
  simp only [classify]
  grind

theorem classify_positive_iff (hne : req0 ||| pos ≠ req0 ||| neg) :
    classify c w req0 pos neg = .positive ↔ w &&& ~~~c.flagCts = req0 ||| pos := by
  simp only [classify]
  grind

theorem word_of_classify_positive (h : classify c w req0 pos neg = .positive) :
    w &&& ~~~c.flagCts = req0 ||| pos := by
  simp only [classify] at h
  grind

theorem classify_congr {w' : Word} (h : w &&& ~~~c.flagCts = w' &&& ~~~c.flagCts) :
    classify c w req0 pos neg = classify c w' req0 pos neg := by simp only [classify, h]

end Comparisons

/-! ## The comparisons in fields (R101, R124) -/

theorem or_eq_iff_of_mask {x a b m : Word} (ha : a &&& m = 0#32) (hb : b &&& m = b) :
    x = a ||| b ↔ x &&& ~~~m = a ∧ x &&& m = b := by
  constructor
  · rintro rfl
    have ha (k : Nat) : (a.getLsbD k && m.getLsbD k) = false := by
      rw [← BitVec.getLsbD_and, ha, BitVec.getLsbD_zero]
    have hb (k : Nat) : (b.getLsbD k && m.getLsbD k) = b.getLsbD k := by rw [← BitVec.getLsbD_and, hb]
    constructor <;> refine BitVec.eq_of_getLsbD_eq fun k hk => ?_
    · rw [BitVec.getLsbD_and, BitVec.getLsbD_or, BitVec.getLsbD_not]
      grind
    · rw [BitVec.getLsbD_and, BitVec.getLsbD_or, Bool.and_or_distrib_right, ha, hb, Bool.false_or]
  · rintro ⟨rfl, rfl⟩
    exact (and_not_or_and x m).symm

theorem flag_and_flagMask (hc : c.Ok) {b : Nat} (hb : b ∈ flagBits c) :
    1#32 <<< b &&& c.flagMask = 1#32 <<< b := by
  refine BitVec.eq_of_getLsbD_eq fun k _ => ?_
  rw [BitVec.getLsbD_and, oneBit_getLsbD (flagBit_bounds hc hb).2]
  by_cases hk : k = b
  · simp [hk, hc.flagsInside b hb]
  · simp [hk]

/-- With a request word without flags, a comparison with one verdict flag is one of the flag field and one
of everything else. -/
theorem reply_eq_iff (hc : c.Ok) {w req0 : Word} (hreq : req0 &&& c.flagMask = 0#32) {b : Nat}
    (hb : b ∈ flagBits c) : w &&& ~~~c.flagCts = req0 ||| 1#32 <<< b ↔
      w &&& ~~~c.flagMask = req0 ∧ w &&& c.flagMask &&& ~~~c.flagCts = 1#32 <<< b := by
  have hcts : c.flagCts &&& c.flagMask = c.flagCts := flag_and_flagMask hc (by simp [flagBits])
  have hrest : w &&& ~~~c.flagCts &&& ~~~c.flagMask = w &&& ~~~c.flagMask := by
    rw [← hcts]
    ext k hk
    simp
    grind
  have hflags : w &&& ~~~c.flagCts &&& c.flagMask = w &&& c.flagMask &&& ~~~c.flagCts := by ac_rfl
  rw [or_eq_iff_of_mask hreq (flag_and_flagMask hc hb), hrest, hflags]

/-- Two flags over one request word differ. -/
theorem or_flag_ne (hc : c.Ok) {req0 : Word} (hreq : req0 &&& c.flagMask = 0#32) {b b' : Nat}
    (hb : b ∈ flagBits c) (hb' : b' ∈ flagBits c) (hne : 1#32 <<< b ≠ 1#32 <<< b') :
    req0 ||| 1#32 <<< b ≠ req0 ||| 1#32 <<< b' := fun h => by
  obtain ⟨-, h1⟩ := (or_eq_iff_of_mask hreq (flag_and_flagMask hc hb)).1 rfl
  obtain ⟨-, h2⟩ := (or_eq_iff_of_mask hreq (flag_and_flagMask hc hb')).1 h
  exact hne (h1.symm.trans h2)

/-- Settles O7: the comparisons by their branches, then each of them field by field. -/
theorem classifyComparesWholeWord : Obligations.ClassifyComparesWholeWord := by
  refine ⟨fun c w req0 pos neg => ⟨classify_negative, classify_positive, classify_mismatch⟩,
    fun c w req0 pos neg hc hreq hflags => ?_⟩
  obtain ⟨b, b', hb, hb', rfl, rfl, hne⟩ : ∃ b b', b ∈ flagBits c ∧ b' ∈ flagBits c ∧
      pos = 1#32 <<< b ∧ neg = 1#32 <<< b' ∧ 1#32 <<< b ≠ 1#32 <<< b' := by
    obtain ⟨rfl, rfl⟩ | ⟨rfl, rfl⟩ := hflags
    · exact ⟨_, _, by simp [flagBits], by simp [flagBits], rfl, rfl, flagAck_ne_flagNack hc⟩
    · exact ⟨_, _, by simp [flagBits], by simp [flagBits], rfl, rfl, flagSuccess_ne_flagFailure hc⟩
  refine ⟨?_, ?_, classify_congr ?_⟩
  · rw [classify_positive_iff (or_flag_ne hc hreq hb hb' hne), reply_eq_iff hc hreq hb]
  · rw [classify_negative_iff, reply_eq_iff hc hreq hb']
  · ext k hk
    simp
    grind

/-! ## The verdict of a reply row (R107 to R121) -/

section Verdicts

variable {op op' info info' free free' flag pos neg : Word}

theorem replyWord_noCts (op info flag : Word) :
    replyWord c op info flag false = mk0 c op info ||| flag := by simp [replyWord]

/-- A reply's word 0 without `FLAG_CTS` is the request's word 0 with the verdict (R104). -/
theorem WordZero.clear_cts (hc : c.Ok) (hw : WordZero c op info free flag) (cts : Bool) :
    replyWord c op info flag cts &&& ~~~c.flagCts = mk0 c op info ||| flag := by
  rw [← replyWord_noCts]
  refine BitVec.eq_of_getLsbD_eq fun k hk => ?_
  obtain ⟨hge, -⟩ := ctsBit_bounds hc
  rw [BitVec.getLsbD_and, BitVec.getLsbD_not, flagCts_getLsbD hc, replyWord_getLsbD hc _ _ _ _ hk,
    replyWord_getLsbD hc _ _ _ _ hk]
  by_cases hk : k = c.ctsBit
  · subst hk
    simp [opcode_bit_eq_false hc hw.opcode (by omega : c.infoShift ≤ c.ctsBit),
      hw.info_bit_eq_false (by omega : c.infoWidth ≤ c.ctsBit - c.infoShift),
      hw.verdict.bit_eq_false (.inr rfl)]
  · simp [hk]
    omega

/-- Words with operands in the info field are equal only if the operands are. -/
theorem WordZero.info_eq (hc : c.Ok) (hw : WordZero c op info free flag)
    (hw' : WordZero c op' info' free' pos) (h : mk0 c op info ||| flag = mk0 c op' info' ||| pos) :
    info = info' := by
  rw [← replyWord_noCts, ← replyWord_noCts] at h
  rw [← hw.infoField_eq hc false, h, hw'.infoField_eq hc]

/-- Above the info field stands the verdict alone. -/
theorem WordZero.bit_high (hc : c.Ok) (hw : WordZero c op info free flag) {k : Nat}
    (hk : c.infoShift + c.infoWidth ≤ k) (h32 : k < 32) :
    (mk0 c op info ||| flag).getLsbD k = flag.getLsbD k := by
  rw [← replyWord_noCts, replyWord_getLsbD hc _ _ _ _ h32, opcode_bit_eq_false hc hw.opcode (by omega),
    hw.info_bit_eq_false (by omega)]
  simp

/-- Words with a verdict are equal only if the verdicts are. -/
theorem WordZero.verdict_eq (hc : c.Ok) (hw : WordZero c op info free flag)
    (hw' : WordZero c op' info' free' pos) (h : mk0 c op info ||| flag = mk0 c op' info' ||| pos) :
    flag = pos := by
  refine BitVec.eq_of_getLsbD_eq fun k hk => ?_
  rcases Nat.lt_or_ge k (c.infoShift + c.infoWidth) with hlow | hhigh
  · rw [hw.verdict.bit_eq_false (.inl hlow), hw'.verdict.bit_eq_false (.inl hlow)]
  · rw [← hw.bit_high hc hhigh hk, h, hw'.bit_high hc hhigh hk]

/-- Below the info field stands the opcode alone, whatever the operand is. -/
theorem replyWord_bit_low (hc : c.Ok) (hflag : IsVerdict c flag) (cts : Bool) {k : Nat}
    (hk : k < c.infoShift) : (replyWord c op info flag cts).getLsbD k = op.getLsbD k := by
  have hfit := hc.infoFits
  obtain ⟨hge, -⟩ := ctsBit_bounds hc
  rw [replyWord_getLsbD hc _ _ _ _ (by omega), hflag.bit_eq_false (by omega)]
  simp [show k ≠ c.ctsBit by omega, show ¬ c.infoShift ≤ k by omega]

/-- A reply's word 0 compares equal only to a request's with the same opcode. -/
theorem opcode_eq_of_reply_eq (hc : c.Ok) (hop : op ∈ c.opcodes) (hop' : op' ∈ c.opcodes)
    (hflag : IsVerdict c flag) (hpos : IsVerdict c pos) {cts : Bool}
    (h : replyWord c op info flag cts &&& ~~~c.flagCts = mk0 c op' info' ||| pos) : op = op' := by
  rw [← replyWord_noCts] at h
  refine BitVec.eq_of_getLsbD_eq fun k _ => ?_
  obtain ⟨hge, -⟩ := ctsBit_bounds hc
  have hfit := hc.infoFits
  rcases Nat.lt_or_ge k c.infoShift with hk | hk
  · have hcts : (~~~c.flagCts).getLsbD k = true := by
      rw [BitVec.getLsbD_not, flagCts_getLsbD hc]
      simp
      omega
    calc op.getLsbD k = (replyWord c op info flag cts &&& ~~~c.flagCts).getLsbD k := by
          rw [BitVec.getLsbD_and, hcts, Bool.and_true, replyWord_bit_low hc hflag cts hk]
      _ = op'.getLsbD k := by rw [h, replyWord_bit_low hc hpos false hk]
  · rw [opcode_bit_eq_false hc hop hk, opcode_bit_eq_false hc hop' hk]

theorem classify_reply_negative (hc : c.Ok) (hw : WordZero c op info free neg) (cts : Bool) :
    classify c (replyWord c op info neg cts) (mk0 c op info) pos neg = .negative :=
  classify_negative (hw.clear_cts hc cts)

theorem classify_reply_positive (hc : c.Ok) (hw : WordZero c op info free pos) (hneg : IsVerdict c neg)
    (hne : pos ≠ neg) (cts : Bool) :
    classify c (replyWord c op info pos cts) (mk0 c op info) pos neg = .positive := by
  have hw0 := hw.clear_cts hc cts
  have hw' : WordZero c op info free neg := ⟨hw.opcode, hw.operand, hneg⟩
  exact classify_positive (fun h => hne (hw.verdict_eq hc hw' (hw0.symm.trans h))) hw0

/-- A reply row of another opcode is a mismatch, whatever its operand is. -/
theorem classify_foreign_opcode (hc : c.Ok) (hop : op ∈ c.opcodes) (hop' : op' ∈ c.opcodes)
    (hflag : IsVerdict c flag) (hpos : IsVerdict c pos) (hneg : IsVerdict c neg) (hne : op ≠ op')
    (cts : Bool) : classify c (replyWord c op info flag cts) (mk0 c op' info') pos neg = .mismatch :=
  classify_mismatch (fun h => hne (opcode_eq_of_reply_eq hc hop hop' hflag hneg h))
    fun h => hne (opcode_eq_of_reply_eq hc hop hop' hflag hpos h)

/-- A reply row with another operand is a mismatch. -/
theorem classify_foreign_info (hc : c.Ok) (hw : WordZero c op info free flag)
    (hpos : WordZero c op' info' free' pos) (hneg : WordZero c op' info' free' neg) (hne : info ≠ info')
    (cts : Bool) : classify c (replyWord c op info flag cts) (mk0 c op' info') pos neg = .mismatch := by
  have hw0 := hw.clear_cts hc cts
  exact classify_mismatch (fun h => hne (hw.info_eq hc hneg (hw0.symm.trans h)))
    fun h => hne (hw.info_eq hc hpos (hw0.symm.trans h))

end Verdicts

end Sys2Proof.Machine
end

section
/-!
What each command's decoder leads to by the verdict of `classify` (R124, R172 to R182), and what follows for
the reply rows of the opcode table.
-/

namespace Sys2Proof.Machine

open Sys2Proof

/-! ## The decoders by their verdict -/

section Decoders

variable {f : Frame} {ws : List Word} {s : State}

theorem settled_decodeReset_positive (h : classify s.cfg.codes (word0 ws) s.cfg.codes.opReset
      s.cfg.codes.flagAck s.cfg.codes.flagNack = .positive) :
    settled (decodeReset f ws s) = ended s { s.h with
      permAddr := unpack48 (ws.getD 1 0#32) (ws.getD 2 0#32), mcFilterType := ws.getD 3 0#32,
      macValid := true, fsm := .ready } ⟨.ok, .none⟩ := by
  simp only [decodeReset, mk0_zero, h, settled_plan_permAddr, settled_plan_filterType,
    settled_plan_macValid, settled_plan_fsm, settled_plan_returnOk]
  rfl

theorem settled_decodeReset_bad (h : classify s.cfg.codes (word0 ws) s.cfg.codes.opReset
      s.cfg.codes.flagAck s.cfg.codes.flagNack ≠ .positive) :
    settled (decodeReset f ws s) = ended s { s.h with macValid := false, fsm := .ready }
      ⟨.error .invalidMacAddr, .none⟩ := by
  unfold decodeReset
  split
  · rename_i hv
    rw [mk0_zero] at hv
    exact absurd hv h
  all_goals
    simp only [settled_plan_macValid, settled_plan_fsm, settled_plan_raise]
    rfl

theorem settled_decodeSetMac_positive {a : MacAddr} (h : classify s.cfg.codes (word0 ws) f.req0
      s.cfg.codes.flagAck s.cfg.codes.flagNack = .positive) :
    settled (decodeSetMac a f ws s) = ended s { s.h with curAddr := a } ⟨.ok, .none⟩ := by
  simp only [decodeSetMac, h, settled_plan_curAddr, settled_plan_returnOk]
  rfl

/-- A refused SET_MAC falls back to the permanent address as it is read (R21, R173, R183). -/
theorem settled_decodeSetMac_negative {a b : MacAddr} {u : State} (h : classify s.cfg.codes (word0 ws) f.req0
      s.cfg.codes.flagAck s.cfg.codes.flagNack = .negative) (hread : readPermAddr s = (b, u)) :
    settled (decodeSetMac a f ws s) = ended u { s.h with curAddr := b } ⟨.error .nacked, .none⟩ := by
  simp only [decodeSetMac, h, settled_plan_curFromPerm, settled_plan_raise, hread]
  rfl

theorem settled_decodeUninspected : settled (decodeUninspected f ws s) = ended s s.h ⟨.ok, .none⟩ := by
  simp only [decodeUninspected, settled_plan_returnOk]
  rfl

theorem settled_decodeSetMacvlan_positive (h : classify s.cfg.codes (word0 ws) f.req0
      s.cfg.codes.flagAck s.cfg.codes.flagNack = .positive) :
    settled (decodeSetMacvlan f ws s) = ended s s.h ⟨.ok, .none⟩ := by
  simp only [decodeSetMacvlan, h, settled_plan_returnOk]
  rfl

theorem settled_decodeNegotiate_positive (h : classify s.cfg.codes (word0 ws) f.req0
      s.cfg.codes.flagAck s.cfg.codes.flagNack = .positive) :
    settled (decodeNegotiate f ws s) = ended s { s.h with apiVersion := ws.getD 1 0#32 }
      ⟨.ok, .none⟩ := by
  simp only [decodeNegotiate, h, settled_plan_apiVersion, settled_plan_returnOk]
  rfl

theorem payloadWords_length (n : Nat) (ws : List Word) : (payloadWords n ws).length = n := by
  simp [payloadWords]

/-- A table reply holds as many entries as `H.reta` has (R117, R178). -/
theorem settled_decodeGetReta_positive (hreta : s.h.reta.length = 128)
    (h : classify s.cfg.codes (word0 ws) f.req0
      s.cfg.codes.flagSuccess s.cfg.codes.flagFailure = .positive) :
    settled (decodeGetReta f ws s) = ended s { s.h with reta := retaOf (payloadWords 8 ws) }
      ⟨.ok, .reta (retaOf (payloadWords 8 ws))⟩ := by
  have hlen : (retaOf (payloadWords 8 ws)).length = s.h.reta.length := by
    rw [retaOf, length_flatMap_chunks retaEntriesOf_length, payloadWords_length, hreta]
  have hw := settled_retaWrites (retaOf (payloadWords 8 ws)) 0 f s [returnOk .reta]
    (by rw [hlen, Nat.zero_add])
  rw [List.take_zero, List.nil_append, settled_plan_returnOk] at hw
  simp only [decodeGetReta, h]
  exact hw

theorem settled_decodeGetRssKey_positive (h : classify s.cfg.codes (word0 ws) f.req0
      s.cfg.codes.flagSuccess s.cfg.codes.flagFailure = .positive) :
    settled (decodeGetRssKey f ws s) = ended s { s.h with rssKey := keyBytes (payloadWords 10 ws) }
      ⟨.ok, .rssKey (keyBytes (payloadWords 10 ws))⟩ := by
  simp only [decodeGetRssKey, h, settled_plan_rssKey, settled_plan_returnOk]
  rfl

end Decoders

/-! ## Which decoder runs (R182) -/

section Interpreted

variable {f : Frame} (ws : List Word) (s : State)

theorem interpretReply_reset (h : f.cmd = .reset) :
    interpretReply f ws s = .next (decodeReset f ws s) := by rw [interpretReply, h]
theorem interpretReply_setMac {a : MacAddr} (h : f.cmd = .setMac a) :
    interpretReply f ws s = .next (decodeSetMac a f ws s) := by rw [interpretReply, h]
theorem interpretReply_setMacvlan {x : Word} {a : MacAddr} (h : f.cmd = .setMacvlan x a) :
    interpretReply f ws s = .next (decodeSetMacvlan f ws s) := by rw [interpretReply, h]
theorem interpretReply_negotiateApi {v : Word} (h : f.cmd = .negotiateApi v) :
    interpretReply f ws s = .next (decodeNegotiate f ws s) := by rw [interpretReply, h]
theorem interpretReply_getReta (h : f.cmd = .getReta) :
    interpretReply f ws s = .next (decodeGetReta f ws s) := by rw [interpretReply, h]
theorem interpretReply_getRssKey (h : f.cmd = .getRssKey) :
    interpretReply f ws s = .next (decodeGetRssKey f ws s) := by rw [interpretReply, h]

/-- SET_VLAN and UPDATE_MC do not look at the reply (R111, R113). -/
theorem interpretReply_uninspected
    (h : (∃ vlanId vlanOn, f.cmd = .setVlan vlanId vlanOn) ∨ ∃ list, f.cmd = .updateMc list) :
    interpretReply f ws s = .next (decodeUninspected f ws s) := by
  obtain ⟨_, _, h⟩ | ⟨_, h⟩ := h <;> rw [interpretReply, h]

end Interpreted

/-! ## Refused and unexpected replies (R124, R252)

The five operations that look at the reply end alike when it is a mismatch, and, but for SET_MAC, when it is
negative. -/

/-- The operations that look at the reply and report what does not match. -/
def InspectsReply (i : Instr) : Prop :=
  (∃ a, i = .setMac a) ∨ (∃ x a, i = .setMacvlan x a) ∨ (∃ v, i = .negotiateApi v) ∨ i = .getReta ∨
    i = .getRssKey

/-- The positive and the negative flag a command compares the reply with (R124). -/
def verdictFlags (c : Config.Codes) (i : Instr) : Word × Word :=
  if i = .getReta ∨ i = .getRssKey then (c.flagSuccess, c.flagFailure) else (c.flagAck, c.flagNack)

/-- The error a negative reply to the command is (R252). -/
def refusalError (i : Instr) : ErrorKind :=
  if i = .getReta ∨ i = .getRssKey then .permissionDenied else .nacked

theorem verdictFlags_query {c : Config.Codes} {i : Instr} (h : i = .getReta ∨ i = .getRssKey) :
    verdictFlags c i = (c.flagSuccess, c.flagFailure) := if_pos h

theorem verdictFlags_other {c : Config.Codes} {i : Instr} (h : ¬ (i = .getReta ∨ i = .getRssKey)) :
    verdictFlags c i = (c.flagAck, c.flagNack) := if_neg h

/-- The verdict of the running command on the words of a reply. -/
def verdictOn (c : Config.Codes) (f : Frame) (ws : List Word) : Verdict :=
  classify c (word0 ws) f.req0 (verdictFlags c f.cmd).1 (verdictFlags c f.cmd).2

/-- A mismatch ends the command with ProtocolMismatch and writes no register. -/
theorem interpretReply_mismatch {f : Frame} {ws : List Word} {s : State}
    (hi : InspectsReply f.cmd) (h : verdictOn s.cfg.codes f ws = .mismatch) :
    ∃ u, interpretReply f ws s = .next u ∧ settled u = ended s s.h ⟨.error .protocolMismatch, .none⟩ := by
  have hend : settled (plan [raise .protocolMismatch] f s)
      = ended s s.h ⟨.error .protocolMismatch, .none⟩ := settled_plan_raise _ _ _ _
  refine ⟨_, ?_, hend⟩
  unfold verdictOn at h
  obtain ⟨a, hc⟩ | ⟨x, a, hc⟩ | ⟨v, hc⟩ | hc | hc := hi <;>
    simp only [hc, verdictFlags, reduceCtorEq, or_self, or_true, true_or, if_true, if_false] at h
  · rw [interpretReply_setMac ws s hc, decodeSetMac, h]
  · rw [interpretReply_setMacvlan ws s hc, decodeSetMacvlan, h]
  · rw [interpretReply_negotiateApi ws s hc, decodeNegotiate, h]
  · rw [interpretReply_getReta ws s hc, decodeGetReta, h]
  · rw [interpretReply_getRssKey ws s hc, decodeGetRssKey, h]

/-- A negative reply ends the command with its error and writes no register; SET_MAC alone falls back to
another address. -/
theorem interpretReply_negative {f : Frame} {ws : List Word} {s : State}
    (hi : InspectsReply f.cmd) (hmac : ∀ a, f.cmd ≠ .setMac a)
    (h : verdictOn s.cfg.codes f ws = .negative) :
    ∃ u, interpretReply f ws s = .next u ∧
      settled u = ended s s.h ⟨.error (refusalError f.cmd), .none⟩ := by
  have hend : settled (plan [raise (refusalError f.cmd)] f s)
      = ended s s.h ⟨.error (refusalError f.cmd), .none⟩ := settled_plan_raise _ _ _ _
  refine ⟨_, ?_, hend⟩
  unfold verdictOn at h
  obtain ⟨a, hc⟩ | ⟨x, a, hc⟩ | ⟨v, hc⟩ | hc | hc := hi <;>
    simp only [hc, verdictFlags, reduceCtorEq, or_self, or_true, true_or, if_true, if_false] at h
  · exact absurd hc (hmac a)
  · rw [interpretReply_setMacvlan ws s hc, decodeSetMacvlan, h]; simp [refusalError, hc]
  · rw [interpretReply_negotiateApi ws s hc, decodeNegotiate, h]; simp [refusalError, hc]
  · rw [interpretReply_getReta ws s hc, decodeGetReta, h]; simp [refusalError, hc]
  · rw [interpretReply_getRssKey ws s hc, decodeGetRssKey, h]; simp [refusalError, hc]

/-! ## Reply rows -/

/-- A reply row is executed as the decoder's step, whichever row it is. -/
theorem exec_reply {r : Instr} (hg : r.group = .reply) (s : State) : exec r s = replyStep r s := by
  cases r <;> simp only [Instr.group, reduceCtorEq] at hg <;> rfl

/-- At the decode point of a command a reply row is that command's decoder on the row's words (R124,
R182). -/
theorem exec_reply_at {s : State} {f : Frame} {i r : Instr} (h : At s f i .decode) (hg : r.group = .reply) :
    exec r s = interpretReply f (replyBuffer s.cfg.codes r s.msg) s := by
  rw [exec_reply hg, replyStep_at h]

/-- The outcome of a reply row is read off the decoder of the command that waits. -/
theorem exec_reply_settles {s u v : State} {f : Frame} {i r : Instr} (h : At s f i .decode)
    (hg : r.group = .reply)
    (hi : interpretReply f (replyBuffer s.cfg.codes r s.msg) s = .next u) (hv : settled u = v) :
    ∃ t, exec r s = .next t ∧ settled t = v := ⟨u, by rw [exec_reply_at h hg, hi], hv⟩

theorem word0_replyBuffer {c : Config.Codes} {r : Instr} {w : Word} {payload : List Word}
    (h : encode c r = w :: payload) (msg : List Word) : word0 (replyBuffer c r msg) = w := by
  rw [replyBuffer, h]; rfl

end Sys2Proof.Machine
end

section
/-!
The reply rows of the opcode table executed at the decode point of a command (R107 to R121): those of the
command itself, those of another, and the agreement of the decoded row with the command that waits (R182).
-/

namespace Sys2Proof.Machine

open Sys2Proof

/-! ## The rows of the waiting command -/

section OwnRows

variable {c : Config.Codes} {op info free req0 pos neg : Word} {cts : Bool} {r : Instr}
  {payload : List Word}

/-- The positive reply row to a request word is positive. -/
theorem classify_replyBuffer_positive (hc : c.Ok) (hw : WordZero c op info free pos)
    (hneg : IsVerdict c neg) (hne : pos ≠ neg) (hreq : req0 = mk0 c op info)
    (henc : encode c r = replyWord c op info pos cts :: payload) (msg : List Word) :
    classify c (word0 (replyBuffer c r msg)) req0 pos neg = .positive := by
  rw [word0_replyBuffer henc, hreq]
  exact classify_reply_positive hc hw hneg hne cts

/-- The negative reply row to a request word is negative. -/
theorem classify_replyBuffer_negative (hc : c.Ok) (hw : WordZero c op info free neg)
    (hreq : req0 = mk0 c op info) (henc : encode c r = replyWord c op info neg cts :: payload)
    (msg : List Word) : classify c (word0 (replyBuffer c r msg)) req0 pos neg = .negative := by
  rw [word0_replyBuffer henc, hreq]
  exact classify_reply_negative hc hw cts

/-- The payload of a reply row is what its command's decoder finds in the buffer. -/
theorem payloadWords_replyBuffer {w : Word} (henc : encode c r = w :: payload) (msg : List Word) :
    payloadWords payload.length (replyBuffer c r msg) = payload := by
  refine List.ext_getElem (payloadWords_length _ _) fun k hk hk' => ?_
  simp [payloadWords, replyBuffer, henc, Nat.add_comm 1 k, List.getElem?_append_left hk',
    List.getElem?_eq_getElem hk']

end OwnRows

theorem At.cmd {s : State} {f : Frame} {i : Instr} {p : Point} (h : At s f i p) : f.cmd = i := h.2.1

section Rows

variable {s : State} {f : Frame} {i r : Instr} {pos neg : Word}

/-- A negative row ends a command other than SET_MAC with its error. -/
theorem exec_reply_negative (h : At s f i .decode) (hg : r.group = .reply) (hi : InspectsReply i)
    (hmac : ∀ a, i ≠ .setMac a) (hf : verdictFlags s.cfg.codes i = (pos, neg))
    (hv : classify s.cfg.codes (word0 (replyBuffer s.cfg.codes r s.msg)) f.req0 pos neg = .negative) :
    ∃ t, exec r s = .next t ∧ settled t = ended s s.h ⟨.error (refusalError i), .none⟩ := by
  obtain rfl := h.cmd
  obtain ⟨u, hu, hend⟩ := interpretReply_negative (s := s) hi hmac (by rw [verdictOn, hf, hv])
  exact exec_reply_settles h hg hu hend

/-- A row that is a mismatch ends the command with ProtocolMismatch. -/
theorem exec_reply_mismatch (h : At s f i .decode) (hg : r.group = .reply) (hi : InspectsReply i)
    (hf : verdictFlags s.cfg.codes i = (pos, neg))
    (hv : classify s.cfg.codes (word0 (replyBuffer s.cfg.codes r s.msg)) f.req0 pos neg = .mismatch) :
    ∃ t, exec r s = .next t ∧ settled t = ended s s.h ⟨.error .protocolMismatch, .none⟩ := by
  obtain rfl := h.cmd
  obtain ⟨u, hu, hend⟩ := interpretReply_mismatch (s := s) hi (by rw [verdictOn, hf, hv])
  exact exec_reply_settles h hg hu hend

end Rows

/-- Settles O35: RESET's row is positive, SET_MAC's rows positive and negative. -/
theorem addressRepliesComplete : Obligations.AddressRepliesComplete := by
  intro s f cts hc
  have hack := isVerdict_ack hc
  have hnack := isVerdict_nack hc
  have hne := flagAck_ne_flagNack hc
  refine ⟨fun hat perm ty => ?_, fun a hat hreq => ?_⟩
  · have hv := classify_replyBuffer_positive hc (wordZero_none (opReset_mem _) hack) hnack hne
      (mk0_zero _ _).symm (r := .resetAck cts perm ty) rfl s.msg
    refine exec_reply_settles hat rfl (interpretReply_reset _ s hat.cmd) ?_
    rw [settled_decodeReset_positive hv]
    simp [replyBuffer, encode, unpack48_pack48]
  · have hreq := hreq.trans (mk0_zero s.cfg.codes _).symm
    have hpos := classify_replyBuffer_positive hc (wordZero_none (opSetMacAddr_mem _) hack) hnack hne hreq
      (r := .setMacAck cts) rfl s.msg
    have hneg := classify_replyBuffer_negative hc (wordZero_none (opSetMacAddr_mem _) hnack) hreq
      (pos := s.cfg.codes.flagAck) (r := .setMacNack cts) rfl s.msg
    have refused {b : MacAddr} {u : State} (hread : readPermAddr s = (b, u)) :
        ∃ t, exec (.setMacNack cts) s = .next t ∧
          settled t = ended u { s.h with curAddr := b } ⟨.error .nacked, .none⟩ :=
      exec_reply_settles hat rfl (interpretReply_setMac _ s hat.cmd)
        (settled_decodeSetMac_negative hneg hread)
    refine ⟨?_, fun hvalid => ?_, fun hvalid => ?_, fun hvalid b rest htape => ?_⟩
    · exact exec_reply_settles hat rfl (interpretReply_setMac _ s hat.cmd)
        (settled_decodeSetMac_positive hpos)
    · exact refused (readPermAddr_valid hvalid)
    · obtain ⟨b, tape, drawn, hread⟩ := readPermAddr_invalid hvalid
      obtain ⟨t, ht⟩ := refused hread
      exact ⟨b, tape, drawn, t, ht⟩
    · exact refused (readPermAddr_tape hvalid htape)

/-- The reply rows of SET_MACVLAN at its decode point (R115). -/
theorem macvlanReplies_complete {s : State} {f : Frame} {x : Word} {a : MacAddr} (cts : Bool)
    (hc : s.cfg.codes.Ok) (hat : At s f (.setMacvlan x a) .decode)
    (hreq : f.req0 = mk0 s.cfg.codes s.cfg.codes.opSetMacvlan x)
    (hx : x.toNat < 2 ^ s.cfg.codes.infoWidth) :
    let ends (i : Instr) (status : Status) : Prop :=
      ∃ t, exec i s = .next t ∧ settled t = ended s s.h ⟨status, .none⟩
    ends (.setMacvlanAck cts x) .ok ∧ ends (.setMacvlanNack cts x) (.error .nacked) ∧
      ∀ y, y ≠ x → y.toNat < 2 ^ s.cfg.codes.infoWidth →
        ends (.setMacvlanAck cts y) (.error .protocolMismatch) ∧
        ends (.setMacvlanNack cts y) (.error .protocolMismatch) := by
  have hack := wordZero_index hc hx (isVerdict_ack hc)
  have hnack := wordZero_index hc hx (isVerdict_nack hc)
  have hi : InspectsReply (.setMacvlan x a) := .inr (.inl ⟨_, _, rfl⟩)
  have hf : verdictFlags s.cfg.codes (.setMacvlan x a) = (_, _) := verdictFlags_other (by simp)
  have other {y free flag : Word} (hw : WordZero s.cfg.codes s.cfg.codes.opSetMacvlan y free flag)
      (hy : y ≠ x) {r : Instr} {payload : List Word} (henc : encode s.cfg.codes r
        = replyWord s.cfg.codes s.cfg.codes.opSetMacvlan y flag cts :: payload) (hg : r.group = .reply) :
      ∃ t, exec r s = .next t ∧ settled t = ended s s.h ⟨.error .protocolMismatch, .none⟩ := by
    refine exec_reply_mismatch hat hg hi hf ?_
    rw [word0_replyBuffer henc, hreq]
    exact classify_foreign_info hc hw hack hnack hy cts
  refine ⟨?_, ?_, fun y hy hlt => ⟨?_, ?_⟩⟩
  · exact exec_reply_settles hat rfl (interpretReply_setMacvlan _ s hat.cmd)
      (settled_decodeSetMacvlan_positive (classify_replyBuffer_positive hc hack (isVerdict_nack hc)
        (flagAck_ne_flagNack hc) hreq (r := .setMacvlanAck cts x) rfl s.msg))
  · exact exec_reply_negative hat rfl hi (by simp) hf (classify_replyBuffer_negative hc hnack hreq rfl s.msg)
  · exact other (wordZero_index hc hlt (isVerdict_ack hc)) hy rfl rfl
  · exact other (wordZero_index hc hlt (isVerdict_nack hc)) hy rfl rfl

/-- Settles O36: each row by its verdict, another index being a mismatch. -/
theorem verdictRepliesComplete : Obligations.VerdictRepliesComplete := by
  intro s f cts hc
  have hack := isVerdict_ack hc
  have hnack := isVerdict_nack hc
  have hsuccess := isVerdict_success hc
  have hfailure := isVerdict_failure hc
  have hne := flagAck_ne_flagNack hc
  have hne' := flagSuccess_ne_flagFailure hc
  refine ⟨fun x a hat hreq hx => macvlanReplies_complete cts hc hat hreq hx, fun v hat hreq => ?_,
    fun hat hreq => ?_, fun hat hreq => ?_⟩
  all_goals have hreq := hreq.trans (mk0_zero s.cfg.codes _).symm
  · refine ⟨fun u => ?_, ?_⟩
    · exact exec_reply_settles hat rfl (interpretReply_negotiateApi _ s hat.cmd)
        (settled_decodeNegotiate_positive (classify_replyBuffer_positive hc
          (wordZero_none (opApiNegotiate_mem _) hack) hnack hne hreq (r := .apiNegotiateAck cts u) rfl s.msg))
    · exact exec_reply_negative hat rfl (.inr (.inr (.inl ⟨v, rfl⟩))) (by simp)
        (verdictFlags_other (by simp))
        (classify_replyBuffer_negative hc (wordZero_none (opApiNegotiate_mem _) hnack) hreq rfl s.msg)
  · refine ⟨fun ws hlen hreta => ?_, ?_⟩
    · have hpay := payloadWords_replyBuffer (c := s.cfg.codes) (r := .getRetaSuccess cts ws) rfl s.msg
      have hend := settled_decodeGetReta_positive (f := f) hreta (classify_replyBuffer_positive hc
        (wordZero_none (opGetReta_mem _) hsuccess) hfailure hne' hreq (r := .getRetaSuccess cts ws) rfl s.msg)
      rw [hlen] at hpay
      rw [hpay] at hend
      exact exec_reply_settles hat rfl (interpretReply_getReta _ s hat.cmd) hend
    · exact exec_reply_negative hat rfl (.inr (.inr (.inr (.inl rfl)))) (by simp)
        (verdictFlags_query (.inl rfl))
        (classify_replyBuffer_negative hc (wordZero_none (opGetReta_mem _) hfailure) hreq rfl s.msg)
  · refine ⟨fun ws hlen => ?_, ?_⟩
    · have hpay := payloadWords_replyBuffer (c := s.cfg.codes) (r := .getRssKeySuccess cts ws) rfl s.msg
      have hend := settled_decodeGetRssKey_positive (f := f) (classify_replyBuffer_positive hc
        (wordZero_none (opGetRssKey_mem _) hsuccess) hfailure hne' hreq (r := .getRssKeySuccess cts ws) rfl
        s.msg)
      rw [hlen] at hpay
      rw [hpay] at hend
      exact exec_reply_settles hat rfl (interpretReply_getRssKey _ s hat.cmd) hend
    · exact exec_reply_negative hat rfl (.inr (.inr (.inr (.inr rfl)))) (by simp)
        (verdictFlags_query (.inr rfl))
        (classify_replyBuffer_negative hc (wordZero_none (opGetRssKey_mem _) hfailure) hreq rfl s.msg)

/-! ## The rows of another operation -/

/-- The opcode of a message (R105); a command has none (R128). -/
def messageOpcode (c : Config.Codes) : Instr → Option Word
  | .resetReq | .resetAck _ _ _ => some c.opReset
  | .setMacReq _ | .setMacAck _ | .setMacNack _ => some c.opSetMacAddr
  | .setVlanReq _ _ | .setVlanAck _ _ | .setVlanNack _ _ => some c.opSetVlan
  | .setMulticastReq _ | .setMulticastAck _ _ | .setMulticastNack _ _ => some c.opSetMulticast
  | .setMacvlanReq _ _ | .setMacvlanAck _ _ | .setMacvlanNack _ _ => some c.opSetMacvlan
  | .apiNegotiateReq _ | .apiNegotiateAck _ _ | .apiNegotiateNack _ => some c.opApiNegotiate
  | .getRetaReq | .getRetaSuccess _ _ | .getRetaFailure _ => some c.opGetReta
  | .getRssKeyReq | .getRssKeySuccess _ _ | .getRssKeyFailure _ => some c.opGetRssKey
  | .stop | .reset | .start | .init | .setMac _ | .setVlan _ _ | .mtaVector _ _ | .updateMc _
  | .setMacvlan _ _ | .getReta | .getRssKey | .negotiateApi _ | .checkLink | .writePosted _ _ _
  | .readPosted _ _ | .checkForRst _ | .readHandle _ | .exchange _ _ => none

/-- A reply row's word 0 has its opcode, a verdict, and some operand (R104). -/
theorem encode_reply_head {c : Config.Codes} (hc : c.Ok) {r : Instr} (hg : r.group = .reply) :
    ∃ op info flag cts payload, messageOpcode c r = some op ∧ op ∈ c.opcodes ∧ IsVerdict c flag ∧
      encode c r = replyWord c op info flag cts :: payload := by
  have hack := isVerdict_ack hc
  have hnack := isVerdict_nack hc
  have hsuccess := isVerdict_success hc
  have hfailure := isVerdict_failure hc
  cases r <;> simp only [Instr.group, reduceCtorEq] at hg
  case resetAck => exact ⟨_, _, _, _, _, rfl, opReset_mem c, hack, rfl⟩
  case setMacAck => exact ⟨_, _, _, _, _, rfl, opSetMacAddr_mem c, hack, rfl⟩
  case setMacNack => exact ⟨_, _, _, _, _, rfl, opSetMacAddr_mem c, hnack, rfl⟩
  case apiNegotiateAck => exact ⟨_, _, _, _, _, rfl, opApiNegotiate_mem c, hack, rfl⟩
  case apiNegotiateNack => exact ⟨_, _, _, _, _, rfl, opApiNegotiate_mem c, hnack, rfl⟩
  case setMacvlanAck => exact ⟨_, _, _, _, _, rfl, opSetMacvlan_mem c, hack, rfl⟩
  case setMacvlanNack => exact ⟨_, _, _, _, _, rfl, opSetMacvlan_mem c, hnack, rfl⟩
  case getRetaSuccess => exact ⟨_, _, _, _, _, rfl, opGetReta_mem c, hsuccess, rfl⟩
  case getRetaFailure => exact ⟨_, _, _, _, _, rfl, opGetReta_mem c, hfailure, rfl⟩
  case getRssKeySuccess => exact ⟨_, _, _, _, _, rfl, opGetRssKey_mem c, hsuccess, rfl⟩
  case getRssKeyFailure => exact ⟨_, _, _, _, _, rfl, opGetRssKey_mem c, hfailure, rfl⟩
  case setVlanAck => exact ⟨_, _, _, _, _, rfl, opSetVlan_mem c, hack, rfl⟩
  case setVlanNack => exact ⟨_, _, _, _, _, rfl, opSetVlan_mem c, hnack, rfl⟩
  case setMulticastAck => exact ⟨_, _, _, _, _, rfl, opSetMulticast_mem c, hack, rfl⟩
  case setMulticastNack => exact ⟨_, _, _, _, _, rfl, opSetMulticast_mem c, hnack, rfl⟩

/-- A reply row of another opcode than the request word's is a mismatch (R124). -/
theorem classify_replyBuffer_foreign {c : Config.Codes} (hc : c.Ok) {r : Instr} (hg : r.group = .reply)
    {op info req0 pos neg : Word} (hop : op ∈ c.opcodes) (hne : messageOpcode c r ≠ some op)
    (hreq : req0 = mk0 c op info) (hpos : IsVerdict c pos) (hneg : IsVerdict c neg) (msg : List Word) :
    classify c (word0 (replyBuffer c r msg)) req0 pos neg = .mismatch := by
  obtain ⟨op', info', flag, cts, payload, hcode, hop', hflag, henc⟩ := encode_reply_head hc hg
  rw [word0_replyBuffer henc, hreq]
  refine classify_foreign_opcode hc hop' hop hflag hpos hneg ?_ cts
  rintro rfl
  exact hne hcode

theorem isVerdict_verdictFlags {c : Config.Codes} (hc : c.Ok) (i : Instr) :
    IsVerdict c (verdictFlags c i).1 ∧ IsVerdict c (verdictFlags c i).2 := by
  unfold verdictFlags
  split
  · exact ⟨isVerdict_success hc, isVerdict_failure hc⟩
  · exact ⟨isVerdict_ack hc, isVerdict_nack hc⟩

/-- A reply row of another opcode than the request's ends an operation that looks at it with
ProtocolMismatch (R124, R252). -/
theorem exec_reply_foreign {s : State} {f : Frame} {i r : Instr} {op info : Word} (hc : s.cfg.codes.Ok)
    (h : At s f i .decode) (hg : r.group = .reply) (hi : InspectsReply i) (hop : op ∈ s.cfg.codes.opcodes)
    (hreq : f.req0 = mk0 s.cfg.codes op info) (hne : messageOpcode s.cfg.codes r ≠ some op) :
    ∃ t, exec r s = .next t ∧ settled t = ended s s.h ⟨.error .protocolMismatch, .none⟩ := by
  obtain ⟨hpos, hneg⟩ := isVerdict_verdictFlags hc i
  exact exec_reply_mismatch h hg hi rfl (classify_replyBuffer_foreign hc hg hop hne hreq hpos hneg s.msg)

/-- A reply row with the opcode of an operation is a row of that operation: no two opcodes are equal (R9 (i),
R105). -/
theorem reply_of_messageOpcode {c : Config.Codes} (hc : c.Ok) {r : Instr} (hg : r.group = .reply) :
    (messageOpcode c r = some c.opReset → ∃ cts p ty, r = .resetAck cts p ty) ∧
    (messageOpcode c r = some c.opSetMacAddr → ∃ cts, r = .setMacAck cts ∨ r = .setMacNack cts) ∧
    (messageOpcode c r = some c.opSetMacvlan →
      ∃ cts y, r = .setMacvlanAck cts y ∨ r = .setMacvlanNack cts y) ∧
    (messageOpcode c r = some c.opApiNegotiate →
      ∃ cts u, r = .apiNegotiateAck cts u ∨ r = .apiNegotiateNack cts) ∧
    (messageOpcode c r = some c.opGetReta → ∃ cts ws, r = .getRetaSuccess cts ws ∨ r = .getRetaFailure cts) ∧
    (messageOpcode c r = some c.opGetRssKey →
      ∃ cts ws, r = .getRssKeySuccess cts ws ∨ r = .getRssKeyFailure cts) := by
  have hops := hc.opcodesNodup
  have hops' := List.nodup_reverse.2 hc.opcodesNodup
  simp [Config.Codes.opcodes] at hops hops'
  cases r <;> simp only [Instr.group, reduceCtorEq] at hg <;> simp [messageOpcode, hops, hops']

/-- Settles O37: the rows of another operation have another opcode. -/
theorem foreignRepliesMismatch : Obligations.ForeignRepliesMismatch := by
  intro s f r hc hg
  obtain ⟨hreset, hmac, hmacvlan, hnegotiate, hreta, hkey⟩ := reply_of_messageOpcode hc hg
  have foreign {i : Instr} {op info : Word} (hat : At s f i .decode) (hi : InspectsReply i)
      (hop : op ∈ s.cfg.codes.opcodes) (hreq : f.req0 = mk0 s.cfg.codes op info) :=
    exec_reply_foreign hc hat hg hi hop hreq
  have plain {op : Word} (h : f.req0 = op) : f.req0 = mk0 s.cfg.codes op 0#32 := h.trans (mk0_zero _ _).symm
  refine ⟨fun a hat hreq hr => ?_, fun x a hat hreq hx hr => ?_, fun v hat hreq hr => ?_,
    fun hat hreq hr => ?_, fun hat hreq hr => ?_, fun hat hr => ?_, fun c hcmd hat => ?_⟩
  · refine foreign hat (.inl ⟨a, rfl⟩) (opSetMacAddr_mem _) (plain hreq) fun hcode => ?_
    obtain ⟨cts, h⟩ := hmac hcode
    exact h.elim (hr cts).1 (hr cts).2
  · refine foreign hat (.inr (.inl ⟨x, a, rfl⟩)) (opSetMacvlan_mem _) hreq fun hcode => ?_
    obtain ⟨cts, y, h⟩ := hmacvlan hcode
    exact h.elim (hr cts y).1 (hr cts y).2
  · refine foreign hat (.inr (.inr (.inl ⟨v, rfl⟩))) (opApiNegotiate_mem _) (plain hreq) fun hcode => ?_
    obtain ⟨cts, u, h⟩ := hnegotiate hcode
    exact h.elim (hr cts u).1 (hr cts u).2
  · refine foreign hat (.inr (.inr (.inr (.inl rfl)))) (opGetReta_mem _) (plain hreq) fun hcode => ?_
    obtain ⟨cts, ws, h⟩ := hreta hcode
    exact h.elim (hr cts ws).1 (hr cts ws).2
  · refine foreign hat (.inr (.inr (.inr (.inr rfl)))) (opGetRssKey_mem _) (plain hreq) fun hcode => ?_
    obtain ⟨cts, ws, h⟩ := hkey hcode
    exact h.elim (hr cts ws).1 (hr cts ws).2
  · have hv := classify_replyBuffer_foreign hc hg (opReset_mem _)
      (fun hcode => by obtain ⟨cts, p, ty, h⟩ := hreset hcode; exact hr cts p ty h)
      (mk0_zero _ _).symm (isVerdict_ack hc) (isVerdict_nack hc) s.msg
    exact exec_reply_settles hat hg (interpretReply_reset _ s hat.cmd)
      (settled_decodeReset_bad (by simp [hv]))
  · obtain rfl := hat.cmd
    exact exec_reply_settles hat hg (interpretReply_uninspected _ s hcmd) settled_decodeUninspected

end Sys2Proof.Machine
end

section
/-!
The row the decoder finds in `MSG` and the command's own reading of `MSG` agree (R124, R182): a decoder looks
at the payload only behind a positive word 0, and then the row found is its own.
-/

namespace Sys2Proof.Machine

open Sys2Proof

/-! ## The waiting command -/

/-- At its decode point a command that waits for a reply interprets `MSG` (R182). -/
theorem exec_command_decode {s : State} {f : Frame} {i : Instr} (h : At s f i .decode)
    (hi : isOperation i = true ∨ i = .reset) : exec i s = interpretReply f s.msg s := by
  obtain ⟨-, hcmd, hp, -⟩ := id h
  cases i <;> simp [isOperation] at hi
  case reset =>
    have hexec : exec .reset s = resetStep f s := by rw [exec, execReset, command_at h]
    rw [hexec, resetStep, hp, interpretReply_reset _ _ hcmd]
  case updateMc list =>
    have hexec : exec (.updateMc list) s = updateMcStep list f s := command_at h _ _
    rw [hexec, interpretReply_uninspected _ _ (.inr ⟨_, hcmd⟩)]
    simp [updateMcStep, operation_decode hp, hp]
  case setMac a =>
    rw [interpretReply_setMac _ _ hcmd]
    exact (command_at h _ _).trans (operation_decode hp _ _)
  case setVlan vlanId vlanOn =>
    rw [interpretReply_uninspected _ _ (.inl ⟨_, _, hcmd⟩)]
    exact (command_at h _ _).trans (operation_decode hp _ _)
  case setMacvlan x a =>
    rw [interpretReply_setMacvlan _ _ hcmd, exec, execSetMacvlan, command_at h, operation_decode hp]
  case getReta =>
    rw [interpretReply_getReta _ _ hcmd]
    exact (command_at h _ _).trans (operation_decode hp _ _)
  case getRssKey =>
    rw [interpretReply_getRssKey _ _ hcmd]
    exact (command_at h _ _).trans (operation_decode hp _ _)
  case negotiateApi v =>
    rw [interpretReply_negotiateApi _ _ hcmd]
    exact (command_at h _ _).trans (operation_decode hp _ _)

/-! ## The decoders look at the payload behind a positive word 0 only -/

section Congruence

variable {f : Frame} {ws ws' : List Word} {s : State}

theorem decodeReset_congr (h0 : word0 ws = word0 ws')
    (hpay : classify s.cfg.codes (word0 ws) s.cfg.codes.opReset s.cfg.codes.flagAck s.cfg.codes.flagNack
      = .positive → unpack48 (ws.getD 1 0#32) (ws.getD 2 0#32) = unpack48 (ws'.getD 1 0#32) (ws'.getD 2 0#32)
        ∧ ws.getD 3 0#32 = ws'.getD 3 0#32) : decodeReset f ws s = decodeReset f ws' s := by
  simp only [decodeReset, ← h0, mk0_zero]
  split
  · rename_i hv
    obtain ⟨haddr, hty⟩ := hpay hv
    rw [haddr, hty]
  · rfl
  · rfl

theorem decodeSetMac_congr (h0 : word0 ws = word0 ws') (a : MacAddr) :
    decodeSetMac a f ws s = decodeSetMac a f ws' s := by simp only [decodeSetMac, h0]

theorem decodeSetMacvlan_congr (h0 : word0 ws = word0 ws') :
    decodeSetMacvlan f ws s = decodeSetMacvlan f ws' s := by simp only [decodeSetMacvlan, h0]

theorem decodeNegotiate_congr (h0 : word0 ws = word0 ws')
    (hpay : classify s.cfg.codes (word0 ws) f.req0 s.cfg.codes.flagAck s.cfg.codes.flagNack = .positive →
      ws.getD 1 0#32 = ws'.getD 1 0#32) : decodeNegotiate f ws s = decodeNegotiate f ws' s := by
  simp only [decodeNegotiate, ← h0]
  split
  · rfl
  · rename_i hv
    rw [hpay hv]
  · rfl

theorem decodeGetReta_congr (h0 : word0 ws = word0 ws')
    (hpay : classify s.cfg.codes (word0 ws) f.req0 s.cfg.codes.flagSuccess s.cfg.codes.flagFailure
      = .positive → payloadWords Config.retaWords ws = payloadWords Config.retaWords ws') :
    decodeGetReta f ws s = decodeGetReta f ws' s := by
  simp only [decodeGetReta, ← h0]
  split
  · rfl
  · rename_i hv
    rw [hpay hv]
  · rfl

theorem decodeGetRssKey_congr (h0 : word0 ws = word0 ws')
    (hpay : classify s.cfg.codes (word0 ws) f.req0 s.cfg.codes.flagSuccess s.cfg.codes.flagFailure
      = .positive → payloadWords Config.rssKeyWords ws = payloadWords Config.rssKeyWords ws') :
    decodeGetRssKey f ws s = decodeGetRssKey f ws' s := by
  simp only [decodeGetRssKey, ← h0]
  split
  · rfl
  · rename_i hv
    rw [hpay hv]
  · rfl

end Congruence

/-! ## The row behind a positive word 0 -/

section PositiveRow

variable {c : Config.Codes} {w : Word} {ws rest : List Word} {i : Instr}

/-- A word 0 that is positive for a request without an operand selects the positive row. -/
theorem decode_of_positive (hc : c.Ok) {row : MsgRow} {op flag neg : Word}
    (hr : replyRow c row op 0#32 flag ∈ replyRows c) (hv : classify c w op flag neg = .positive)
    (ws : List Word) : decode c (w :: ws) = readRow c row w ws := by
  refine decode_of_findRow (findRow_of_matches hc (List.mem_append_right _ hr) ?_) ws
  rw [replyRow, BitVec.or_zero]
  exact word_of_classify_positive hv

theorem resetAck_of_positive (hc : c.Ok) (hd : decode c (w :: ws) = .ok (i, rest))
    (hv : classify c w c.opReset c.flagAck c.flagNack = .positive) :
    ∃ cts w1 w2 w3 more, ws = w1 :: w2 :: w3 :: more ∧ i = .resetAck cts (unpack48 w1 w2) w3 := by
  rw [decode_of_positive hc (row := .resetAck) (by simp [replyRows]) hv] at hd
  simp only [readRow] at hd
  split at hd <;> cases hd
  exact ⟨_, _, _, _, _, rfl, rfl⟩

theorem apiNegotiateAck_of_positive (hc : c.Ok) (hd : decode c (w :: ws) = .ok (i, rest))
    (hv : classify c w c.opApiNegotiate c.flagAck c.flagNack = .positive) :
    ∃ cts w1 more, ws = w1 :: more ∧ i = .apiNegotiateAck cts w1 := by
  rw [decode_of_positive hc (row := .apiNegotiateAck) (by simp [replyRows]) hv] at hd
  simp only [readRow] at hd
  split at hd <;> cases hd
  exact ⟨_, _, _, rfl, rfl⟩

theorem getRetaSuccess_of_positive (hc : c.Ok) (hd : decode c (w :: ws) = .ok (i, rest))
    (hv : classify c w c.opGetReta c.flagSuccess c.flagFailure = .positive) :
    ∃ cts, Config.retaWords ≤ ws.length ∧ i = .getRetaSuccess cts (ws.take Config.retaWords) := by
  rw [decode_of_positive hc (row := .getRetaSuccess) (by simp [replyRows]) hv, readRow] at hd
  obtain ⟨hn, hi, -⟩ := skipWords_ok hd
  exact ⟨_, hn, hi⟩

theorem getRssKeySuccess_of_positive (hc : c.Ok) (hd : decode c (w :: ws) = .ok (i, rest))
    (hv : classify c w c.opGetRssKey c.flagSuccess c.flagFailure = .positive) :
    ∃ cts, Config.rssKeyWords ≤ ws.length ∧ i = .getRssKeySuccess cts (ws.take Config.rssKeyWords) := by
  rw [decode_of_positive hc (row := .getRssKeySuccess) (by simp [replyRows]) hv, readRow] at hd
  obtain ⟨hn, hi, -⟩ := skipWords_ok hd
  exact ⟨_, hn, hi⟩

end PositiveRow

/-- The payload behind word 0 is the first words behind it. -/
theorem payloadWords_cons {n : Nat} {w : Word} {ws : List Word} (h : n ≤ ws.length) :
    payloadWords n (w :: ws) = ws.take n := by
  refine List.ext_getElem (by simp [payloadWords_length, h]) fun k hk hk' => ?_
  have hlt : k < ws.length := by simp at hk'; omega
  simp [payloadWords, Nat.add_comm 1 k, hlt]

/-- A row that took its payload from the words as they stand gives the decoder the same payload. -/
theorem payloadWords_replyBuffer_take {c : Config.Codes} {r : Instr} {n : Nat} {w w' : Word}
    {ws : List Word} (h : n ≤ ws.length) (henc : encode c r = w' :: ws.take n) (msg : List Word) :
    payloadWords n (replyBuffer c r msg) = payloadWords n (w :: ws) := by
  have hlen : (ws.take n).length = n := by rw [List.length_take, Nat.min_eq_left h]
  have hpay := payloadWords_replyBuffer henc msg
  rwa [hlen, ← payloadWords_cons (w := w) h] at hpay

/-- Settles O10: word 0 of the row's words is word 0 of `MSG`, and behind a positive one the row found is
the command's own, with the payload of `MSG`. -/
theorem decodedReplyAgreesWithCommand : Obligations.DecodedReplyAgreesWithCommand := by
  intro s f c i rest hat hc hop hreta hkey hnegotiate hd hg
  rw [exec_reply_at hat hg, exec_command_decode hat hop]
  cases hmsg : s.msg with
  | nil => rw [hmsg] at hd; cases hd
  | cons w ws =>
    rw [hmsg] at hd
    obtain ⟨-, -, payload, henc, -, -⟩ := readFrom_of_decode (p := s.cfg) hc hd
    have hword : word0 (replyBuffer s.cfg.codes i (w :: ws)) = w := word0_replyBuffer henc _
    have h0 : word0 (replyBuffer s.cfg.codes i (w :: ws)) = word0 (w :: ws) := hword
    have hcmd := hat.cmd
    cases c <;> simp [isOperation] at hop
    case reset =>
      rw [interpretReply_reset _ _ hcmd, interpretReply_reset _ _ hcmd]
      refine congrArg _ (decodeReset_congr h0 fun hv => ?_)
      rw [hword] at hv
      obtain ⟨cts, w1, w2, w3, more, rfl, rfl⟩ := resetAck_of_positive hc hd hv
      exact ⟨unpack48_pack48 _, rfl⟩
    case setMac a =>
      rw [interpretReply_setMac _ _ hcmd, interpretReply_setMac _ _ hcmd, decodeSetMac_congr h0]
    case setVlan vlanId vlanOn =>
      rw [interpretReply_uninspected _ _ (.inl ⟨_, _, hcmd⟩),
        interpretReply_uninspected _ _ (.inl ⟨_, _, hcmd⟩)]
      rfl
    case updateMc list =>
      rw [interpretReply_uninspected _ _ (.inr ⟨_, hcmd⟩), interpretReply_uninspected _ _ (.inr ⟨_, hcmd⟩)]
      rfl
    case setMacvlan x a =>
      rw [interpretReply_setMacvlan _ _ hcmd, interpretReply_setMacvlan _ _ hcmd, decodeSetMacvlan_congr h0]
    case getReta =>
      rw [interpretReply_getReta _ _ hcmd, interpretReply_getReta _ _ hcmd]
      refine congrArg _ (decodeGetReta_congr h0 fun hv => ?_)
      rw [hword, hreta rfl] at hv
      obtain ⟨cts, hn, rfl⟩ := getRetaSuccess_of_positive hc hd hv
      exact payloadWords_replyBuffer_take hn rfl _
    case getRssKey =>
      rw [interpretReply_getRssKey _ _ hcmd, interpretReply_getRssKey _ _ hcmd]
      refine congrArg _ (decodeGetRssKey_congr h0 fun hv => ?_)
      rw [hword, hkey rfl] at hv
      obtain ⟨cts, hn, rfl⟩ := getRssKeySuccess_of_positive hc hd hv
      exact payloadWords_replyBuffer_take hn rfl _
    case negotiateApi v =>
      rw [interpretReply_negotiateApi _ _ hcmd, interpretReply_negotiateApi _ _ hcmd]
      refine congrArg _ (decodeNegotiate_congr h0 fun hv => ?_)
      rw [hword, hnegotiate v rfl] at hv
      obtain ⟨cts, w1, more, rfl, rfl⟩ := apiNegotiateAck_of_positive hc hd hv
      rfl

end Sys2Proof.Machine
end

section
/-!
The transport commands one point at a time: their admission (R147), what each point of the two contracts
does (R140 to R144), and CHECK_FOR_RST's sample (R145).
-/

namespace Sys2Proof.Machine

open Sys2Proof

/-! ## Admission (R146, R147) -/

/-- The Host issues neither EXCHANGE nor a message (R128, R129). -/
theorem not_hostIssuable {i : Instr} (h : i.group ≠ .command ∨ ∃ a b, i = .exchange a b) :
    hostIssuable i = false := by
  obtain hg | ⟨a, b, rfl⟩ := h
  · unfold hostIssuable
    split
    · rfl
    · exact decide_eq_false hg
  · rfl

theorem lenOk_iff {p : Config.Params} {len : Nat} : lenOk p len = true ↔ 1 ≤ len ∧ len ≤ p.mbxSize := by
  simp [lenOk]

section Admission

variable {s : State} (hs : s.seq = .idle)
include hs

theorem exec_writePosted_idle (msg : List Word) (len id : Nat) : exec (.writePosted msg len id) s
    = .next (if (Instr.writePosted msg len id).wellFormed s.cfg then
        accepted s (Frame.start (.writePosted msg len id) .postStart none len)
      else { s with refusalMark := true }) := by
  rw [exec, execWritePosted, command_idle hs]; rfl

theorem exec_readPosted_idle (len id : Nat) : exec (.readPosted len id) s
    = .next (if (Instr.readPosted len id).wellFormed s.cfg then
        accepted s (Frame.start (.readPosted len id) .readStart none 0)
      else { s with refusalMark := true }) := by
  rw [exec, execReadPosted, command_idle hs]; rfl

theorem exec_checkForRst_idle (id : Nat) : exec (.checkForRst id) s
    = .next (if (Instr.checkForRst id).wellFormed s.cfg then
        accepted s (Frame.start (.checkForRst id) .indicatorRead none 0)
      else { s with refusalMark := true }) := by
  rw [exec, execCheckForRst, command_idle hs]; rfl

theorem exec_exchange_idle (reqLen rspLen : Nat) : exec (.exchange reqLen rspLen) s
    = .next (if (Instr.exchange reqLen rspLen).wellFormed s.cfg then
        accepted s (Frame.start (.exchange reqLen rspLen) .postStart none reqLen)
      else { s with refusalMark := true }) := by
  rw [exec, execExchange, command_idle hs]; rfl

end Admission

/-- Settles O16: admission is the operands' well-formedness, and a move of the Host cannot issue EXCHANGE or
a message. -/
theorem transportAdmission : Obligations.TransportAdmission := by
  refine ⟨fun s i rest hs hi => ?_, fun s msg len id hs =>
    ⟨fun hm h1 h2 hid => ?_, fun hm hbad => ?_, fun h1 h2 hid => ?_, fun hbad => ?_, fun hid => ?_,
      fun hid => ?_, fun rspLen h1 h2 h3 h4 => ?_⟩⟩
  · rw [step_scheduled_issue hs, if_neg (by simp [issueAdmitted, not_hostIssuable hi])]
    rfl
  · refine ⟨Frame.start _ .postStart none len, rfl, rfl, rfl, rfl, ?_⟩
    rw [exec_writePosted_idle hs, if_pos (by simp [Instr.wellFormed, lenOk_iff, *])]
  · rw [exec_writePosted_idle hs, if_neg]
    simp only [Instr.wellFormed, Bool.and_eq_true, lenOk_iff, decide_eq_true_eq]
    omega
  · refine ⟨Frame.start _ .readStart none 0, rfl, rfl, rfl, rfl, ?_⟩
    rw [exec_readPosted_idle hs, if_pos (by simp [Instr.wellFormed, lenOk_iff, *])]
  · rw [exec_readPosted_idle hs, if_neg]
    simp only [Instr.wellFormed, Bool.and_eq_true, lenOk_iff, decide_eq_true_eq]
    omega
  · refine ⟨Frame.start _ .indicatorRead none 0, rfl, rfl, rfl, ?_⟩
    rw [exec_checkForRst_idle hs, if_pos (by simp [Instr.wellFormed, hid])]
  · rw [exec_checkForRst_idle hs, if_neg (by simp [Instr.wellFormed, hid])]
  · refine ⟨Frame.start _ .postStart none len, rfl, rfl, rfl, rfl, rfl, ?_⟩
    rw [exec_exchange_idle hs, if_pos (by simp [Instr.wellFormed, lenOk_iff, *])]

/-! ## CHECK_FOR_RST (R145) -/

/-- A frame stands at the point it stands at. -/
theorem At.frame_eq {s : State} {f : Frame} {i : Instr} {p : Point} (h : At s f i p) :
    { f with point := p } = f := by rw [← h.2.2.1]

/-- At a point of CHECK_FOR_RST its pseudocode runs there. -/
theorem exec_checkForRst_at {s : State} {f : Frame} {id : Nat} {p : Point} (h : At s f (.checkForRst id) p) :
    exec (.checkForRst id) s = checkForRstStep { f with point := p } s := by
  rw [h.frame_eq, exec, execCheckForRst, command_at h]

/-- Settles O25: the sample is one `regRead` of `MBX`, whose bits a present device answers by its status. -/
theorem checkForRstReturnsIndicator : Obligations.CheckForRstReturnsIndicator := by
  refine fun s f id => ⟨fun h => ?_, fun h hp hr hd hw => ?_, fun h => ?_, fun h hr hd hw => ?_,
    fun h hr => ?_⟩ <;> rw [exec_checkForRst_at h]
  · rfl
  · refine ⟨mbxWord s.cfg.window s.dev.vfu s.dev.pfu s.dev.pfsts s.dev.rstip,
      showsReset_mbxWord hp.window _ _ _ _, ?_⟩
    simp only [checkForRstStep, readTo, regRead_mbx hr hd, drainAll_nil hw]
    rfl
  · rfl
  · simp only [checkForRstStep, readTo, regRead_discovers hr hd, drainAll_nil hw]
    rfl
  · simp only [checkForRstStep, readTo, regRead_short hr]
    rfl

/-! ## The points of WRITE_POSTED and READ_POSTED -/

section Points

variable {s : State} {f : Frame} {c : Instr} {p : Point}

/-- At a point of a contract the transport's pseudocode runs there, whichever command stands at it. -/
theorem exec_onSide (hc : usesTransport c = true) (h : At s f c p) {use : Use} (hp : onSide use p = true) :
    exec c s = transportStep { f with point := p } s := by
  rw [h.frame_eq]
  refine exec_transport hc h ?_
  cases use with
  | post => exact .inl hp
  | read => exact .inr hp

theorem exec_onPost (hc : usesTransport c = true) (h : At s f c p) (hp : isPostPoint p = true) :
    exec c s = transportStep { f with point := p } s := exec_onSide (use := .post) hc h hp

theorem exec_onRead (hc : usesTransport c = true) (h : At s f c p) (hp : isReadPoint p = true) :
    exec c s = transportStep { f with point := p } s := exec_onSide (use := .read) hc h hp

/-- The block's move at a point of a contract is the running command's (R35). -/
theorem currentInstr_onSide (h : At s f c p) {use : Use} (hp : onSide use p = true) :
    currentInstr s = some c := by
  obtain ⟨hs, rfl, rfl, ht⟩ := h
  have hbuild := (not_build_of_onSide hp).2
  unfold currentInstr
  simp only [hs, ht, if_true]
  split
  · rename_i henc; simp [henc, buildPoints] at hbuild
  · rename_i hdec; cases use <;> simp [hdec, onSide, isPostPoint, isReadPoint] at hp
  · rfl

end Points

/-! ### Updates of the state -/

/-- A register write touches the queue only, which it leaves alone once the block knows that the device is
gone (R62). -/
theorem regWrite_eq (r : Reg) (v : Word) (s : State) : regWrite r v s = { s with
    wbuf := if s.h.removed = true then s.wbuf else s.wbuf ++ [(r.offset s.cfg, v)] } := by
  unfold regWrite; split <;> rfl

theorem sourceWord_writePosted {f : Frame} {m : List Word} {n d : Nat} (hf : f.cmd = .writePosted m n d)
    (i : Nat) (s : State) : sourceWord f i s = m.getD i 0#32 := by
  simp [sourceWord, hf]

theorem sourceWord_other {f : Frame} (hf : ∀ m n d, f.cmd ≠ .writePosted m n d) (i : Nat) (s : State) :
    sourceWord f i s = s.msg.getD i 0#32 := by
  unfold sourceWord
  split
  · rename_i hcmd; exact absurd hcmd (hf _ _ _)
  · rfl

theorem storeWord_readPosted {c : Instr} {n d : Nat} (hc : c = .readPosted n d) (i : Nat) (w : Word)
    (s : State) : storeWord c i w s = { s with hostBuf := s.hostBuf.set i w } := by
  subst hc; rfl

theorem storeWord_other {c : Instr} (hc : ∀ n d, c ≠ .readPosted n d) (i : Nat) (w : Word) (s : State) :
    storeWord c i w s = { s with msg := s.msg.set i w } := by
  unfold storeWord
  split
  · exact absurd rfl (hc _ _)
  · rfl

theorem removalTest_present {s : State} (h : s.h.removed = false) (f : Frame) (use : Use)
    (goOn : State → State) : removalTest f use goOn s = goOn s := if_neg (by simp [h])

theorem removalTest_gone {s : State} (h : s.h.removed = true) (f : Frame) (use : Use)
    (goOn : State → State) : removalTest f use goOn s = transportRaise f use .deviceRemoved s := if_pos h

/-! ### The rules of the points that post a message -/

section Post

variable {s : State} {f : Frame} {c : Instr} (hc : usesTransport c = true)
include hc

theorem exec_postStart (h : At s f c .postStart) (hr : s.h.removed = false) :
    exec c s = .next { s with seq := .busy { f with point := .lockBudget .post } } := by
  rw [exec_onPost hc h rfl]
  exact congrArg _ (removalTest_present hr _ _ _)

/-- The count of the lock poll is read once, before its first iteration (R140). -/
theorem exec_lockBudget {u : Use} (h : At s f c (.lockBudget u)) :
    exec c s = .next { s with seq := .busy { f with
      n := budget s.cfg.unarmedBudget s.h.mbxTimeout, point := .lockWrite u } } :=
  exec_onSide hc h (onSide_lockBudget u)

theorem exec_lockWrite {u : Use} (h : At s f c (.lockWrite u)) :
    exec c s = .next { s with
      wbuf := if s.h.removed = true then s.wbuf
        else s.wbuf ++ [(s.cfg.window.offMbx, bitMask s.cfg.window.mbxVfu)]
      seq := .busy { f with point := .lockRead u } } := by
  rw [exec_onSide hc h (onSide_lockWrite u)]
  simp only [transportStep, regWrite_eq]
  rfl

theorem exec_lockRead {u : Use} (h : At s f c (.lockRead u)) :
    exec c s = .next { (regRead .mbx s).2 with
      seq := .busy { f with v := (regRead .mbx s).1, point := .lockTest u } } :=
  exec_onSide hc h (onSide_lockRead u)

/-- The sample shows the lock and no reset: the copy begins at word 0 (R141, R143). -/
theorem exec_lockTest_post (h : At s f c (.lockTest .post)) (hr : s.h.removed = false)
    (hreset : showsReset s.cfg.window f.v = false) (hlock : showsLock s.cfg.window f.v = true) :
    exec c s = .next { s with seq := .busy { f with i := 0, point := .copyOut } } := by
  rw [exec_onPost hc h rfl]
  simp only [transportStep, pollTests, hr, hreset, hlock]
  rfl

theorem exec_copyOut (h : At s f c .copyOut) :
    exec c s = .next { s with
      wbuf := if s.h.removed = true then s.wbuf
        else s.wbuf ++ [(mbmemAddr s.cfg.window f.i, sourceWord f f.i s)]
      seq := .busy { f with
        i := f.i + 1, point := if f.i + 1 < f.reqLen then .copyOut else .postReq } } := by
  rw [exec_onPost hc h rfl]
  simp only [transportStep, regWrite_eq]
  rfl

theorem exec_postReq (h : At s f c .postReq) :
    exec c s = .next { s with
      wbuf := if s.h.removed = true then s.wbuf
        else s.wbuf ++ [(s.cfg.window.offMbx, bitMask s.cfg.window.mbxReq)]
      seq := .busy { f with point := .postFlush } } := by
  rw [exec_onPost hc h rfl]
  simp only [transportStep, regWrite_eq]
  rfl

theorem exec_postFlush (h : At s f c .postFlush) :
    exec c s = .next { flush s with seq := .busy { f with point := .postDone } } :=
  exec_onPost hc h rfl

end Post

/-- Settles O38: each of the three polls starts by reading its budget. -/
theorem budgetOfPolls : Obligations.BudgetOfPolls := by
  refine ⟨fun u => if_pos rfl, fun u t ht => if_neg ht, fun s f c hc => ⟨fun u => exec_lockBudget hc,
    fun h => exec_onRead hc h rfl⟩⟩

/-- Settles O39: each of these points is one `regWrite`. -/
theorem transportPostsWrites : Obligations.TransportPostsWrites := by
  refine fun s f c hc => ⟨fun u => exec_lockWrite hc, exec_postReq hc, fun h => ?_, fun h hw => ?_,
    fun m n d h hw => ?_⟩
  · rw [exec_onRead hc h rfl]
    simp only [transportStep, regWrite_eq]
    rfl
  · rw [exec_copyOut hc h, sourceWord_other (fun m n d => h.cmd ▸ hw m n d)]
    rfl
  · rw [exec_copyOut hc h, sourceWord_writePosted (h.cmd.trans hw)]
    rfl

/-! ## The removal tests and the ends of the contracts (R143, R144, R146, R214) -/

/-- The points at which a contract tests for a removal before it goes on (R143, R144). -/
theorem exec_removalTest {s : State} {f : Frame} {c : Instr} {p : Point} (hc : usesTransport c = true)
    (h : At s f c p)
    (hp : p = .postStart ∨ p = .postDone ∨ p = .readStart ∨ p = .copyInTest ∨ p = .readDone) :
    ∃ use goOn, exec c s = .next (removalTest { f with point := p } use goOn s) := by
  obtain rfl | rfl | rfl | rfl | rfl := hp
  · exact ⟨.post, _, exec_onPost hc h rfl⟩
  · exact ⟨.post, _, exec_onPost hc h rfl⟩
  · exact ⟨.read, _, exec_onRead hc h rfl⟩
  · exact ⟨.read, _, exec_onRead hc h rfl⟩
  · exact ⟨.read, _, exec_onRead hc h rfl⟩

section Ends

variable {f : Frame} {s : State}

theorem settled_afterPost_writePosted {m : List Word} {n d : Nat} (hf : f.cmd = .writePosted m n d) :
    settled (afterPost f s) = ended s s.h ⟨.ok, .none⟩ := by
  simp only [afterPost, hf, settled_plan_returnOk]; rfl

theorem afterPost_reset (hf : f.cmd = .reset) : afterPost f s = s.goto f .await := by
  simp only [afterPost, hf]

theorem afterPost_other (hr : f.cmd ≠ .reset) (hw : ∀ m n d, f.cmd ≠ .writePosted m n d) :
    afterPost f s = s.goto f .readStart := by
  unfold afterPost
  split
  · rename_i hcmd; exact absurd hcmd (hw _ _ _)
  · rename_i hcmd; exact absurd hcmd hr
  · rfl

theorem settled_afterRead_readPosted {n d : Nat} (hf : f.cmd = .readPosted n d) :
    settled (afterRead f s) = ended s s.h ⟨.ok, .words (s.hostBuf.take n)⟩ := by
  simp only [afterRead, hf, settled_plan_returnOk]; rfl

theorem settled_afterRead_exchange {a b : Nat} (hf : f.cmd = .exchange a b) :
    settled (afterRead f s) = ended s s.h ⟨.ok, .none⟩ := by
  simp only [afterRead, hf, settled_plan_returnOk]; rfl

/-- An operation and RESET have a reply to interpret (R146, R214). -/
theorem afterRead_interprets (hf : isOperation f.cmd = true ∨ f.cmd = .reset) :
    afterRead f s = s.goto f .decode := by
  unfold afterRead
  split
  · rename_i hcmd; simp [hcmd, isOperation] at hf
  · rename_i hcmd; simp [hcmd, isOperation] at hf
  · rfl

end Ends

/-- Settles O42: each of the five points is a removal test, which fails as every transport error does, or
goes on as its contract says. -/
theorem postingEnds : Obligations.PostingEnds := by
  refine fun s f c hc => ⟨fun p h hp hr => ?_, exec_postStart hc, fun h hr => ?_,
    fun h hr => ⟨fun m n d hw => ?_, fun hreset => ?_, fun hreset hw => ?_⟩⟩
  · obtain ⟨use, goOn, ht⟩ := exec_removalTest hc h hp
    rw [removalTest_gone hr] at ht
    obtain ⟨hidle, hresult, hh, hdev, hwbuf, _⟩ :=
      settled_transportRaise { f with point := p } use .deviceRemoved s
    exact ⟨_, ht, hidle, hresult, hdev, hwbuf, by rw [hh, ← h.cmd]; rfl⟩
  · rw [exec_onRead hc h rfl]
    exact congrArg _ (removalTest_present hr _ _ _)
  all_goals
    rw [exec_onPost hc h rfl]
    simp only [transportStep, removalTest_present hr]
  · exact ⟨_, rfl, settled_afterPost_writePosted (h.cmd.trans hw)⟩
  · exact congrArg Host.Outcome.next (afterPost_reset (h.cmd.trans hreset))
  · exact congrArg Host.Outcome.next (afterPost_other (h.cmd.symm ▸ hreset)
      fun m n d => h.cmd.symm ▸ hw m n d)

/-- Settles O43, point by point: one `regRead`, one `flush`, one delay, one stored word, or one removal
test. -/
theorem readingCopiesAndEnds : Obligations.ReadingCopiesAndEnds := by
  refine fun s f c hc => ⟨fun h => exec_onRead hc h rfl, fun u => exec_lockRead hc,
    fun u h => exec_onSide hc h (onSide_lockDelay u), fun h => exec_onRead hc h rfl, exec_postFlush hc,
    fun h => exec_onRead hc h rfl, fun h => exec_onRead hc h rfl,
    fun h => ⟨fun n d hr => ?_, fun hr => ?_⟩, fun h hr => ?_,
    fun h hr => ⟨fun n d hcmd => ?_, fun a b hcmd => ?_, fun hcmd => ?_⟩⟩
  all_goals
    rw [exec_onRead hc h rfl]
    simp only [transportStep]
  · rw [storeWord_readPosted (h.cmd.trans hr)]; rfl
  · rw [storeWord_other (fun n d => h.cmd ▸ hr n d)]; rfl
  · rw [removalTest_present hr]; rfl
  all_goals rw [removalTest_present hr]
  · exact ⟨_, rfl, settled_afterRead_readPosted (h.cmd.trans hcmd)⟩
  · exact ⟨_, rfl, settled_afterRead_exchange (h.cmd.trans hcmd)⟩
  · exact congrArg Host.Outcome.next (afterRead_interprets (h.cmd.symm ▸ hcmd))

end Sys2Proof.Machine
end

section
/-!
A failed contract: which steps of a contract end a command, and what its draws leave of the two buffers
(R36, R144, R263).
-/

namespace Sys2Proof.Machine

open Sys2Proof

/-- One step of a contract fails, ends a raw transport command with `OK`, or leaves the command running with
no update pending. -/
inductive ContractStep (f : Frame) (use : Use) (s : State) : State → Prop where
  | raises (e : ErrorKind) : ContractStep f use s (transportRaise f use e s)
  | returns (out : Returned) : ContractStep f use s (plan [returnOk out] f s)
  | goesOn {t : State} {g : Frame} (hs : t.seq = .busy g) (ht : g.todo = []) : ContractStep f use s t

section Cases

variable {f : Frame} {use : Use} {s t : State}

theorem contractStep_removalTest {goOn : State → State} (h : ContractStep f use s (goOn s)) :
    ContractStep f use s (removalTest f use goOn s) := by
  unfold removalTest
  split
  · exact .raises _
  · exact h

theorem contractStep_pollTests (hf : f.todo = []) (awaited : Bool) {onSuccess : State → State}
    (h : ContractStep f use s (onSuccess s)) (again : Point) :
    ContractStep f use s (pollTests f use awaited onSuccess again s) := by
  obtain ⟨e, _, heq⟩ | ⟨_, _, _, heq⟩ | ⟨_, heq⟩ | ⟨k, _, heq⟩ :=
    pollTests_cases f use awaited onSuccess again s <;> rw [heq]
  · exact .raises e
  · exact h
  · exact .goesOn rfl hf
  · exact .goesOn rfl hf

theorem contractStep_afterLock (hf : f.todo = []) (u : Use) : ContractStep f use s (afterLock f u s) := by
  cases u <;> exact .goesOn rfl hf

theorem contractStep_afterPost (hf : f.todo = []) : ContractStep f use s (afterPost f s) := by
  unfold afterPost
  split
  · exact .returns _
  · exact .goesOn rfl hf
  · exact .goesOn rfl hf

theorem contractStep_afterRead (hf : f.todo = []) : ContractStep f use s (afterRead f s) := by
  unfold afterRead
  split
  · exact .returns _
  · exact .returns _
  · exact .goesOn rfl hf

/-- A point lies on one contract at most. -/
theorem onSide_unique {u : Use} {q : Point} (h : onSide use q = true) (h' : onSide u q = true) :
    use = u := by
  have hboth := not_onSide_both q
  cases use <;> cases u <;> simp_all [onSide]

/-- What a step at a point of a contract can do. -/
theorem contractStep_transportStep {p : Point} (hf : f.todo = []) (hp : onSide use p = true)
    (ht : transportStep { f with point := p } s = .next t) : ContractStep { f with point := p } use s t := by
  have htodo (q : Point) : ({ f with point := q } : Frame).todo = [] := hf
  cases p with
  | postStart =>
    cases ht
    cases onSide_unique hp (u := .post) rfl
    exact contractStep_removalTest (.goesOn rfl hf)
  | postDone =>
    cases ht
    cases onSide_unique hp (u := .post) rfl
    exact contractStep_removalTest (contractStep_afterPost hf)
  | readStart | copyInTest =>
    cases ht
    cases onSide_unique hp (u := .read) rfl
    exact contractStep_removalTest (.goesOn rfl hf)
  | readDone =>
    cases ht
    cases onSide_unique hp (u := .read) rfl
    exact contractStep_removalTest (contractStep_afterRead hf)
  | lockTest u =>
    cases ht
    cases onSide_unique hp (onSide_lockTest u)
    exact contractStep_pollTests (htodo _) _ (contractStep_afterLock (htodo _) _) _
  | pollTest =>
    cases ht
    cases onSide_unique hp (u := .read) rfl
    exact contractStep_pollTests (htodo _) _ (.goesOn rfl (htodo _)) _
  | lockBudget | lockWrite | lockRead | lockDelay | copyOut | postReq | postFlush | pollBudget | pollRead
  | pollDelay | copyIn | copyStore | ackWrite | ackFlush =>
    cases ht
    exact .goesOn rfl hf
  | _ => cases use <;> cases hp

/-- A step of a contract that ends its command with an error is a raise. -/
theorem ContractStep.raised (h : ContractStep f use s t) (hi : (settled t).seq = .idle) {e : ErrorKind}
    (hr : (settled t).result = some ⟨.error e, .none⟩) : ∃ e', t = transportRaise f use e' s := by
  cases h with
  | raises e' => exact ⟨e', rfl⟩
  | returns out => simp at hr
  | goesOn hs ht => rw [settled_none hs ht, hs] at hi; cases hi

end Cases

/-! ## Words put over a buffer (R36) -/

theorem overlay_getElem?_front {ws buf : List Word} {j : Nat} (hj : j < ws.length) (hb : j < buf.length) :
    (overlay ws buf)[j]? = ws[j]? := by
  rw [overlay, List.getElem?_take_of_lt hb, List.getElem?_append_left hj]

theorem overlay_getElem?_behind {ws buf : List Word} {j : Nat} (hj : ws.length ≤ j) :
    (overlay ws buf)[j]? = buf[j]? := by
  rcases Nat.lt_or_ge j buf.length with hb | hb
  · rw [overlay, List.getElem?_take_of_lt hb, List.getElem?_append_right hj, List.getElem?_drop,
      Nat.add_sub_cancel' hj]
  · rw [List.getElem?_eq_none (by simpa using hb), List.getElem?_eq_none hb]

/-! ## The buffers after a failed contract (R36, R144, R146, R263) -/

section Buffers

variable {f : Frame} {s : State} (e : ErrorKind)

/-- A failed WRITE_POSTED changes neither buffer (R143). -/
theorem postRaise_buffers : (settled (transportRaise f .post e s)).msg = s.msg ∧
    (settled (transportRaise f .post e s)).hostBuf = s.hostBuf := by
  simp only [transportRaise, raiseSteps, settled_transportCleanUp]
  exact ⟨rfl, rfl⟩

/-- A failed READ_POSTED that reads into `MSG` leaves the Host's buffer alone. -/
theorem readRaise_buffers (hc : ∀ n d, f.cmd ≠ .readPosted n d) :
    (settled (transportRaise f .read e s)).msg = overlay (drawWords f.rspLen s).1 s.msg ∧
    (settled (transportRaise f .read e s)).hostBuf = s.hostBuf := by
  rw [settled_readRaise hc]
  exact ⟨rfl, drawWords_hostBuf _ _⟩

/-- A failed READ_POSTED of the Host draws its buffer first, then `MSG` (assumption 31). -/
theorem rawReadRaise_buffers {n d : Nat} (hc : f.cmd = .readPosted n d) :
    (settled (transportRaise f .read e s)).hostBuf = overlay (drawWords f.rspLen s).1 s.hostBuf ∧
    (settled (transportRaise f .read e s)).msg
      = overlay (drawWords f.rspLen (drawWords f.rspLen s).2).1 s.msg := by
  rw [settled_rawReadRaise hc]
  exact ⟨rfl, rfl⟩

/-- Behind the words read both buffers stay. -/
theorem readRaise_behind {j : Nat} (hj : f.rspLen ≤ j) :
    (settled (transportRaise f .read e s)).msg[j]? = s.msg[j]? ∧
    (settled (transportRaise f .read e s)).hostBuf[j]? = s.hostBuf[j]? := by
  by_cases hc : ∃ n d, f.cmd = .readPosted n d
  · obtain ⟨n, d, hc⟩ := hc
    obtain ⟨hhost, hmsg⟩ := rawReadRaise_buffers (s := s) e hc
    rw [hhost, hmsg]
    exact ⟨overlay_getElem?_behind (by simpa using hj), overlay_getElem?_behind (by simpa using hj)⟩
  · obtain ⟨hmsg, hhost⟩ := readRaise_buffers (f := f) (s := s) e fun n d h => hc ⟨n, d, h⟩
    rw [hhost, hmsg]
    exact ⟨overlay_getElem?_behind (by simpa using hj), rfl⟩

end Buffers

/-- Settles O41: the step that ends with an error is a raise, and a raise of READ_POSTED puts its draws over
the front of the buffers. -/
theorem failedReadScramblesBufferAndMsg : Obligations.FailedReadScramblesBufferAndMsg := by
  intro s t f c p e hc h ht hi hr
  have raised {use : Use} (hp : onSide use p = true) :
      ∃ e', t = transportRaise f use e' s := by
    have hstep := contractStep_transportStep h.2.2.2 hp ((exec_onSide hc h hp).symm.trans ht)
    rw [h.frame_eq] at hstep
    exact hstep.raised hi hr
  obtain rfl := h.cmd
  refine ⟨fun hp => ?_, fun hp => ?_⟩
  · obtain ⟨e', rfl⟩ := raised (use := .post) hp
    exact postRaise_buffers e'
  · obtain ⟨e', rfl⟩ := raised (use := .read) hp
    refine ⟨fun j => readRaise_behind e', fun hcmd => ?_, fun ⟨n, d, hcmd⟩ => ?_⟩
    · obtain ⟨hmsg, hhost⟩ := readRaise_buffers (s := s) e' hcmd
      refine ⟨hhost, fun ws more j htape hlen hj hb => ?_⟩
      rw [hmsg, ← hlen, drawWords_tape htape]
      exact overlay_getElem?_front (hlen ▸ hj) hb
    · intro ws vs more j htape hws hvs hj
      obtain ⟨hhost, hmsg⟩ := rawReadRaise_buffers (s := s) e' hcmd
      have hdraw : drawWords f.rspLen s = (ws, { s with tape := vs ++ more }) := by
        rw [← hws]; exact drawWords_tape (by rw [htape, List.append_assoc])
      have hdraw' : (drawWords f.rspLen { s with tape := vs ++ more }).1 = vs := by
        rw [← hvs, drawWords_tape rfl]
      rw [hhost, hmsg, hdraw, hdraw']
      exact ⟨overlay_getElem?_front (hws ▸ hj), overlay_getElem?_front (hvs ▸ hj)⟩

end Sys2Proof.Machine
end

section
/-!
WRITE_POSTED on a free buffer: the lock is granted, the copy posts one write a word, and the flush applies
them all (R141, R143, R77).
-/

namespace Sys2Proof.Machine

open Sys2Proof

/-! ## Runs -/

theorem reaches_trans {s t u : State} {j k : Nat} (h : Reaches j s t) (h' : Reaches k t u) :
    Reaches (j + k) s u := by
  induction j generalizing s with
  | zero => cases h; rwa [Nat.zero_add]
  | succ j ih =>
    unfold Reaches runSteps at h
    split at h
    · rename_i v hstep
      rw [Nat.add_right_comm]
      exact reaches_succ hstep (ih h)
    · cases h
    · cases h

/-- A step at a point of a contract, when nothing else moves, is the running command's. -/
theorem reaches_onSide {s t u : State} {f : Frame} {c : Instr} {p : Point} {k : Nat} (hsched : s.sched = [])
    (h : At s f c p) {use : Use} (hp : onSide use p = true) (he : At s f c p → exec c s = .next t)
    (ht : Reaches k t u) : Reaches (k + 1) s u :=
  reaches_succ ((step_unscheduled hsched (currentInstr_onSide h hp)).trans (he h)) ht

/-! ## The posted writes of a message (R66, R143) -/

/-- The writes that copy the words `ws` to `MBMEM` from word `i` on, in order. -/
def mbmemWrites (win : Config.Window) : Nat → List Word → List (Nat × Word)
  | _, [] => []
  | i, w :: ws => (mbmemAddr win i, w) :: mbmemWrites win (i + 1) ws

section Drain

variable {s : State} (hp : s.cfg.Ok) (hd : s.dev.removed = false)
include hp hd

/-- A present device takes a write at the register that stands at its offset (R68, R79). -/
theorem applyWrite_offset {r : Reg} (hr : r ∈ allRegs s.cfg) (v : Word) :
    applyWrite (r.offset s.cfg, v) s = writeReg r v s := by
  simp [applyWrite, hd, regAt_offset hp hr]

theorem applyWrite_offMbx (v : Word) :
    applyWrite (s.cfg.window.offMbx, v) s = s.modDev (applyMbx s.cfg.window v) :=
  applyWrite_offset hp hd (r := .mbx) (by simp [allRegs]) v

/-- Applying the writes of a message fills `MBMEM` with it. -/
theorem applyAll_mbmemWrites (ws : List Word) (i : Nat) (hi : i + ws.length ≤ s.cfg.mbxSize)
    (rest : List (Nat × Word)) : applyAll (mbmemWrites s.cfg.window i ws ++ rest) s
      = applyAll rest (s.modDev (fillMbmem s.cfg.window i ws)) := by
  induction ws generalizing s i with
  | nil => rfl
  | cons w ws ih =>
    simp only [List.length_cons] at hi
    have hw : applyWrite (mbmemAddr s.cfg.window i, w) s
        = s.modDev fun d => d.setMbmemWord s.cfg.window i w :=
      applyWrite_offset hp hd (r := .mbmem i) (mbmem_mem_allRegs (by omega)) w
    rw [mbmemWrites, List.cons_append, applyAll, hw]
    exact ih (s := s.modDev fun d => d.setMbmemWord s.cfg.window i w) hp hd (i + 1)
      (by rw [State.modDev_cfg]; omega)

end Drain

/-! ## The bits a write of one flag sets -/

theorem hasBit_bitMask {k : Nat} (hk : k < 32) : hasBit (bitMask k) k = true := by
  simp [hasBit, hk]

theorem hasBit_bitMask_ne {j k : Nat} (hne : j ≠ k) : hasBit (bitMask k) j = false := by
  simp [hasBit, hne]

/-! ## The device once the message is delivered -/

/-- Words behind the last one filled stay. -/
theorem mbmemWord_fillMbmem_behind (win : Config.Window) (ws : List Word) {i j : Nat}
    (hj : i + ws.length ≤ j) (d : Device) : (fillMbmem win i ws d).mbmemWord win j = d.mbmemWord win j := by
  induction ws generalizing i d with
  | nil => rfl
  | cons w ws ih =>
    simp only [List.length_cons] at hj
    rw [fillMbmem, ih (by omega), Device.mbmemWord_setMbmemWord_ne win d w (by omega)]

/-- The device after the lock, the words of the message and `REQ` have been written (R71, R143). -/
def delivered (win : Config.Window) (msg : List Word) (d : Device) : Device :=
  applyMbx win (bitMask win.mbxReq) (fillMbmem win 0 msg (applyMbx win (bitMask win.mbxVfu) d))

section Delivered

variable {win : Config.Window} {words queues : Nat} {msg : List Word} {d : Device}

theorem delivered_mbmemWord (hd : Memory.wf d.mbmem = true) {j : Nat} (hj : j < msg.length) :
    (delivered win msg d).mbmemWord win j = msg.getD j 0#32 := by
  have hfill := mbmemWord_fillMbmem win msg 0 hj (d := applyMbx win (bitMask win.mbxVfu) d) hd
  rwa [Nat.zero_add] at hfill

theorem delivered_mbmemWord_behind {j : Nat} (hj : msg.length ≤ j) :
    (delivered win msg d).mbmemWord win j = d.mbmemWord win j :=
  mbmemWord_fillMbmem_behind win msg (by rwa [Nat.zero_add]) (applyMbx win (bitMask win.mbxVfu) d)

/-- The `REQ` write makes the request pending, lets go of the lock and takes back no reply (R43, R71). -/
theorem delivered_bits (hw : win.Ok words queues) : (delivered win msg d).reqPending = true ∧
    (delivered win msg d).vfu = false ∧ (delivered win msg d).pfsts = d.pfsts := by
  have hreq := hw.bitsInside win.mbxReq (by simp [Config.Window.mbxBits])
  have hbits := hw.mbxBitsNodup
  simp only [Config.Window.mbxBits, List.nodup_cons, List.mem_cons, not_or] at hbits
  obtain ⟨⟨hreqAck, hreqVfu, _⟩, ⟨hackVfu, _⟩, _⟩ := hbits
  rw [delivered, fillMbmem_eq]
  simp [applyMbx, hasBit_bitMask hreq, hasBit_bitMask_ne (Ne.symm hreqAck),
    hasBit_bitMask_ne (Ne.symm hreqVfu), hasBit_bitMask_ne hackVfu]

end Delivered

/-! ## The run -/

/-- No other agent moves, no write is posted, and the mailbox of a present device is free (R43, R48, R70). -/
structure FreeBuffer (s : State) : Prop where
  params : s.cfg.Ok
  sched : s.sched = []
  wbuf : s.wbuf = []
  notGone : s.h.removed = false
  present : s.dev.removed = false
  noReset : s.dev.rstip = false
  free : s.dev.pfu = false

/-- Once the write of `VFU` stands at the head of the queue, the sample of a free buffer shows the lock
(R71, R141). -/
theorem exec_lockRead_granted {s : State} {c : Instr} (hc : usesTransport c = true) (hp : s.cfg.Ok)
    (hr : s.h.removed = false) (hd : s.dev.removed = false) (hrst : s.dev.rstip = false)
    (hpfu : s.dev.pfu = false) (hw : s.wbuf = [(s.cfg.window.offMbx, bitMask s.cfg.window.mbxVfu)]) :
    ∃ v, showsReset s.cfg.window v = false ∧ showsLock s.cfg.window v = true ∧
      ∀ f, At s f c (.lockRead .post) → exec c s = .next { s with
        wbuf := []
        dev := applyMbx s.cfg.window (bitMask s.cfg.window.mbxVfu) s.dev
        seq := .busy { f with v := v, point := .lockTest .post } } := by
  have hdrain : drainAll s
      = { s with wbuf := [], dev := applyMbx s.cfg.window (bitMask s.cfg.window.mbxVfu) s.dev } := by
    rw [drainAll, hw]
    exact applyWrite_offMbx (s := { s with wbuf := [] }) hp hd _
  have hread := regRead_mbx hr hd
  have hvfu := hp.window.bitsInside s.cfg.window.mbxVfu (by simp [Config.Window.mbxBits])
  rw [hdrain] at hread
  refine ⟨(regRead .mbx s).1, ?_, ?_, fun f h => ?_⟩
  · rw [hread]; exact (showsReset_mbxWord hp.window _ _ _ _).trans hrst
  · rw [hread, showsLock_mbxWord hp.window]
    simp [applyMbx, hasBit_bitMask hvfu, hpfu]
  · rw [exec_lockRead hc h, hread]

/-- On a free buffer of a present device the first attempt takes the lock (R141). -/
theorem lock_reaches {s : State} {f : Frame} {c : Instr} (hc : usesTransport c = true) (hs : FreeBuffer s)
    (h : At s f c .postStart) :
    ∃ g : Frame, g.cmd = c ∧ g.point = .copyOut ∧ g.todo = [] ∧ g.reqLen = f.reqLen ∧ g.i = 0 ∧
      Reaches 5 s { s with
        dev := applyMbx s.cfg.window (bitMask s.cfg.window.mbxVfu) s.dev, seq := .busy g } := by
  obtain ⟨hp, hsched, hw, hr, hd, hrst, hpfu⟩ := hs
  obtain ⟨v, hreset, hlock, hread⟩ := exec_lockRead_granted hc hp hr hd hrst hpfu
    (s := { s with
      wbuf := [(s.cfg.window.offMbx, bitMask s.cfg.window.mbxVfu)]
      seq := .busy { f with n := budget s.cfg.unarmedBudget s.h.mbxTimeout, point := .lockRead .post } }) rfl
  obtain ⟨hseq, hcmd, hpt, ht⟩ := h
  refine ⟨{ f with
    n := budget s.cfg.unarmedBudget s.h.mbxTimeout, v := v, i := 0, point := .copyOut },
    hcmd, rfl, ht, rfl, rfl, ?_⟩
  refine reaches_onSide (use := .post) hsched ⟨hseq, hcmd, hpt, ht⟩ rfl (exec_postStart hc · hr) ?_
  refine reaches_onSide hsched ⟨rfl, hcmd, rfl, ht⟩ (onSide_lockBudget .post) (exec_lockBudget hc) ?_
  refine reaches_onSide hsched ⟨rfl, hcmd, rfl, ht⟩ (onSide_lockWrite .post)
    (fun h => (exec_lockWrite hc h).trans (by simp only [hr, hw]; rfl)) ?_
  refine reaches_onSide hsched ⟨rfl, hcmd, rfl, ht⟩ (onSide_lockRead .post) (hread _) ?_
  refine reaches_onSide hsched ⟨rfl, hcmd, rfl, ht⟩ (onSide_lockTest .post)
    (exec_lockTest_post hc · hr hreset hlock) ?_
  simp only [Reaches, runSteps, hw]

/-- The word at the head of what is left of a list, what is left behind it, and how many that are. -/
theorem of_drop_eq_cons {α : Type} {l rest : List α} {i : Nat} {a : α} (h : l.drop i = a :: rest) :
    l[i]? = some a ∧ l.drop (i + 1) = rest ∧ l.length = i + 1 + rest.length := by
  refine ⟨by rw [← List.head?_drop, h]; rfl, by rw [← List.tail_drop, h]; rfl, ?_⟩
  have := congrArg List.length h
  simp only [List.length_drop, List.length_cons] at this
  omega

section Copy

variable {msg : List Word} {len id : Nat} {s : State} {f : Frame} {w : Word}

/-- One round of the copy loop posts one word; `q` is the point it leads to (R143). -/
theorem exec_copyOut_word (hr : s.h.removed = false) (hw : msg[f.i]? = some w) {q : Point}
    (hq : (if f.i + 1 < f.reqLen then .copyOut else .postReq) = q)
    (h : At s f (.writePosted msg len id) .copyOut) : exec (.writePosted msg len id) s = .next { s with
      wbuf := s.wbuf ++ [(mbmemAddr s.cfg.window f.i, w)]
      seq := .busy { f with i := f.i + 1, point := q } } := by
  have hword : msg.getD f.i 0#32 = w := by rw [List.getD_eq_getElem?_getD, hw]; rfl
  rw [exec_copyOut rfl h, sourceWord_writePosted h.cmd, hword, hr, hq]
  rfl

/-- The copy loop posts what is left of the message, word by word (R143). -/
theorem copyOut_reaches {ws : List Word} (hsched : s.sched = []) (hr : s.h.removed = false)
    (h : At s f (.writePosted msg len id) .copyOut) (hlen : f.reqLen = msg.length)
    (hws : msg.drop f.i = w :: ws) : ∃ t g,
      t = { s with wbuf := s.wbuf ++ mbmemWrites s.cfg.window f.i (w :: ws), seq := .busy g } ∧
      At t g (.writePosted msg len id) .postReq ∧ Reaches (ws.length + 1) s t := by
  obtain ⟨hw, htail, hcount⟩ := of_drop_eq_cons hws
  obtain ⟨hs, hcmd, hpt, ht⟩ := h
  induction ws generalizing s f w with
  | nil =>
    have hlast : ¬ f.i + 1 < f.reqLen := by simp only [List.length_nil] at hcount; omega
    refine ⟨_, { f with i := f.i + 1, point := .postReq }, rfl, ⟨rfl, hcmd, rfl, ht⟩, ?_⟩
    exact reaches_onSide (use := .post) hsched ⟨hs, hcmd, hpt, ht⟩ rfl
      (exec_copyOut_word hr hw (if_neg hlast)) rfl
  | cons w' ws ih =>
    have hmore : f.i + 1 < f.reqLen := by simp only [List.length_cons] at hcount; omega
    obtain ⟨hw', htail', hcount'⟩ := of_drop_eq_cons htail
    obtain ⟨t, g, rfl, hg, hrun⟩ := ih (w := w')
      (s := { s with
        wbuf := s.wbuf ++ [(mbmemAddr s.cfg.window f.i, w)]
        seq := .busy { f with i := f.i + 1, point := .copyOut } })
      (f := { f with i := f.i + 1, point := .copyOut }) hsched hr hlen htail hw' htail' hcount' rfl hcmd rfl ht
    refine ⟨_, g, ?_, hg, reaches_onSide (use := .post) hsched ⟨hs, hcmd, hpt, ht⟩ rfl
      (exec_copyOut_word hr hw (if_pos hmore)) hrun⟩
    simp only [mbmemWrites, List.append_assoc, List.singleton_append]

end Copy

/-- The `REQ` write and the flush, which leads to the last removal test (R143). -/
theorem postReq_reaches {s : State} {f : Frame} {c : Instr} (hc : usesTransport c = true)
    (hsched : s.sched = []) (hr : s.h.removed = false) (h : At s f c .postReq) :
    ∃ u g, At { flush u with seq := .busy g } g c .postDone ∧
      u = { s with
        wbuf := s.wbuf ++ [(s.cfg.window.offMbx, bitMask s.cfg.window.mbxReq)]
        seq := .busy { f with point := .postFlush } } ∧
      Reaches 2 s { flush u with seq := .busy g } := by
  obtain ⟨hs, hcmd, hpt, ht⟩ := h
  refine ⟨_, { f with point := .postDone }, ⟨rfl, hcmd, rfl, ht⟩, rfl, ?_⟩
  refine reaches_onSide (use := .post) hsched ⟨hs, hcmd, hpt, ht⟩ rfl
    (fun h => (exec_postReq hc h).trans (by simp only [hr]; rfl)) ?_
  exact reaches_onSide (use := .post) hsched ⟨rfl, hcmd, rfl, ht⟩ rfl (exec_postFlush hc) rfl

/-- While the block does not know of a removal a flush leaves no posted write behind (R63). -/
theorem flush_wbuf_present {s : State} (hr : s.h.removed = false) : (flush s).wbuf = [] := by
  simp [flush, regRead_live hr]

/-- The flush behind a message whose writes wait in the queue delivers it (R61, R63). -/
theorem flush_delivers {s : State} (hp : s.cfg.Ok) (hr : s.h.removed = false) (hd : s.dev.removed = false)
    {msg : List Word} (hmax : msg.length ≤ s.cfg.mbxSize)
    (hw : s.wbuf = mbmemWrites s.cfg.window 0 msg ++ [(s.cfg.window.offMbx, bitMask s.cfg.window.mbxReq)]) :
    (flush s).dev
      = applyMbx s.cfg.window (bitMask s.cfg.window.mbxReq) (fillMbmem s.cfg.window 0 msg s.dev) := by
  have hcopy := applyAll_mbmemWrites (s := { s with wbuf := [] }) hp hd msg 0 (by rwa [Nat.zero_add])
    [(s.cfg.window.offMbx, bitMask s.cfg.window.mbxReq)]
  have hreq := applyWrite_offMbx (s := State.modDev { s with wbuf := [] } (fillMbmem s.cfg.window 0 msg)) hp
    (by simpa using hd) (bitMask s.cfg.window.mbxReq)
  rw [flush, regRead_dev hr, drainAll, hw]
  refine (congrArg State.dev (hcopy.trans hreq)).trans rfl

/-- A raw WRITE_POSTED on a free buffer comes to its last test with its message delivered: the lock, the
copy, `REQ` and the flush, one after the other (R141, R143). -/
theorem writePosted_reaches {s : State} {f : Frame} {msg : List Word} {len id : Nat} (hs : FreeBuffer s)
    (h : At s f (.writePosted msg len id) .postStart) (hreq : f.reqLen = msg.length) (hlen : 1 ≤ msg.length)
    (hmax : msg.length ≤ s.cfg.mbxSize) :
    ∃ k t g, Reaches k s t ∧ At t g (.writePosted msg len id) .postDone ∧ t.wbuf = [] ∧
      t.dev = delivered s.cfg.window msg s.dev ∧ t.h = { s.h with removed := t.h.removed } := by
  obtain ⟨w, ws, hmsg⟩ := List.exists_cons_of_length_pos hlen
  obtain ⟨g, hgc, hgp, hgt, hgreq, hgi, hlock⟩ := lock_reaches rfl hs h
  obtain ⟨hp, hsched, hw, hr, hd, _, _⟩ := hs
  obtain ⟨t, g', rfl, hg', hcopy⟩ := copyOut_reaches
    (s := { s with dev := applyMbx s.cfg.window (bitMask s.cfg.window.mbxVfu) s.dev, seq := .busy g })
    hsched hr ⟨rfl, hgc, hgp, hgt⟩ (hgreq.trans hreq) (by rw [hgi]; exact hmsg)
  obtain ⟨u, g'', hg'', rfl, hpost⟩ := postReq_reaches (by rfl) (by exact hsched) (by exact hr) hg'
  refine ⟨_, _, g'', reaches_trans hlock (reaches_trans hcopy hpost), hg'', ?_, ?_, flush_h _⟩
  · exact flush_wbuf_present hr
  · refine flush_delivers (by exact hp) (by exact hr) (by exact hd) (by exact hmax) ?_
    simp only [hw, hgi, hmsg, List.nil_append]

/-- Settles O44: the command is accepted, and its run delivers the message. -/
theorem postedMessageIsDelivered : Obligations.PostedMessageIsDelivered := by
  intro s msg hp hs hsched hw hlen hmax hr hd hrst hpfu hwf
  have haccept := exec_writePosted_idle hs msg msg.length 0
  rw [if_pos (by simp [Instr.wellFormed, lenOk_iff, hlen, hmax])] at haccept
  obtain ⟨k, t, g, hrun, hg, hempty, hdev, hh⟩ := writePosted_reaches (s := accepted s _)
    (f := Frame.start (.writePosted msg msg.length 0) .postStart none msg.length)
    ⟨hp, hsched, hw, hr, hd, hrst, hpfu⟩ ⟨rfl, rfl, rfl, rfl⟩ rfl hlen hmax
  obtain ⟨hpending, hvfu, hpfsts⟩ := delivered_bits (msg := msg) (d := s.dev) hp.window
  refine ⟨_, t, g, k, haccept, hrun, hg, hempty, ?_⟩
  rw [hdev]
  exact ⟨fun j hj => delivered_mbmemWord hwf hj, fun j hj => delivered_mbmemWord_behind hj, hpending, hvfu,
    hpfsts, hh⟩

end Sys2Proof.Machine
end

section
/-!
The mailbox-mediated operations (R170 to R182): the windows of the multicast hash and the two commands that
use it, admission of the seven operations, and what the waiting command makes of the words in `MSG`.
-/

namespace Sys2Proof.Machine

open Sys2Proof

/-! ## The multicast hash (R175) -/

/-- The 48 bits of an address, byte 0 in bits 7:0 (R175). -/
def addressBits (a : MacAddr) : BitVec 48 := a.a5 ++ a.a4 ++ a.a3 ++ a.a2 ++ a.a1 ++ a.a0

/-- Byte 4 shifted down and byte 5 shifted up behind it are twelve address bits. -/
theorem window_eq_addressBits (a : MacAddr) {k : Nat} (hk : k ≤ 4) :
    (((a.a4.setWidth 32 : Word) >>> k) ||| ((a.a5.setWidth 32 : Word) <<< (8 - k))).setWidth 12
      = (addressBits a).extractLsb' (32 + k) 12 := by
  ext i hi
  simp only [addressBits, BitVec.getElem_setWidth, BitVec.getLsbD_or, BitVec.getLsbD_ushiftRight,
    BitVec.getLsbD_shiftLeft, BitVec.getLsbD_setWidth, BitVec.getElem_extractLsb', BitVec.getLsbD_append]
  grind

theorem mtaWindow_eq_addressBits (a : MacAddr) {t : Word} {lo : Nat} (h : t = 0#32 ∧ lo = 36 ∨
      t = 1#32 ∧ lo = 35 ∨ t = 2#32 ∧ lo = 34 ∨ t = 3#32 ∧ lo = 32) :
    mtaWindow a t = (addressBits a).extractLsb' lo 12 := by
  obtain ⟨rfl, rfl⟩ | ⟨rfl, rfl⟩ | ⟨rfl, rfl⟩ | ⟨rfl, rfl⟩ := h
  · exact window_eq_addressBits a (k := 4) (by omega)
  · exact window_eq_addressBits a (k := 3) (by omega)
  · exact window_eq_addressBits a (k := 2) (by omega)
  · simpa [mtaWindow] using window_eq_addressBits a (k := 0) (by omega)

theorem filterTypeValid_iff {t : Word} : filterTypeValid t = true ↔ t.toNat ≤ 3 := by
  simp [filterTypeValid]

theorem mtaWindow_invalid (a : MacAddr) {t : Word} (h : 3 < t.toNat) : mtaWindow a t = 0#12 := by
  have hne (n : Nat) (hn : n ≤ 3) : t ≠ BitVec.ofNat 32 n := by
    rintro rfl
    simp at h
    omega
  simp only [mtaWindow, if_neg (hne 0 (by omega)), if_neg (hne 1 (by omega)), if_neg (hne 2 (by omega)),
    if_neg (hne 3 (by omega))]

/-- Settles O8: the window of each valid type, and none of them reads bytes 0 to 3. -/
theorem hashWindows : Obligations.HashWindows := fun a _ =>
  ⟨fun h => mtaWindow_eq_addressBits a (.inl ⟨h, rfl⟩),
    fun h => mtaWindow_eq_addressBits a (.inr (.inl ⟨h, rfl⟩)),
    fun h => mtaWindow_eq_addressBits a (.inr (.inr (.inl ⟨h, rfl⟩))),
    fun h => mtaWindow_eq_addressBits a (.inr (.inr (.inr ⟨h, rfl⟩))),
    mtaWindow_invalid a, fun _ _ _ _ => rfl⟩

/-! ## Where a command stands -/

theorem At.point {s : State} {f : Frame} {i : Instr} {p : Point} (h : At s f i p) : f.point = p := h.2.2.1

theorem At.todo {s : State} {f : Frame} {i : Instr} {p : Point} (h : At s f i p) : f.todo = [] := h.2.2.2

/-! ## MTA_VECTOR and the hash loop of UPDATE_MC (R175, R176) -/

theorem diagnose_valid {t : Word} (h : t.toNat ≤ 3) : diagnose t = [] :=
  if_pos (filterTypeValid_iff.2 h)

theorem diagnose_invalid {t : Word} (h : 3 < t.toNat) : diagnose t = [.emit (.badFilterType t)] :=
  if_neg fun hv => Nat.not_lt.2 (filterTypeValid_iff.1 hv) h

theorem exec_mtaVector_at {s : State} {f : Frame} {a : MacAddr} {t : Word}
    (h : At s f (.mtaVector a t) .run) : exec (.mtaVector a t) s
      = .next (perform (diagnose t ++ [returnOk (.value (.vector (mtaWindow a t)))]) f s) := by
  rw [exec, execMtaVector, command_at h, mtaVectorStep, h.point]

/-- Settles O19: a valid type returns its window at once, an invalid one after its diagnostic. -/
theorem mtaVectorReturnsHash : Obligations.MtaVectorReturnsHash := by
  refine fun s f a t h => ⟨fun lo hlo => ?_, fun hinvalid => ⟨_, exec_mtaVector_at h, ?_⟩⟩
  · have hvalid : t.toNat ≤ 3 := by
      obtain ⟨rfl, -⟩ | ⟨rfl, -⟩ | ⟨rfl, -⟩ | ⟨rfl, -⟩ := hlo <;> decide
    rw [exec_mtaVector_at h, diagnose_valid hvalid, mtaWindow_eq_addressBits a hlo]
    rfl
  · rw [settled_perform, diagnose_invalid hinvalid, mtaWindow_invalid a hinvalid, List.singleton_append,
      settled_plan_emit, settled_plan_returnOk]
    rfl

/-- Where nothing is pending, a plan of no updates is the frame itself. -/
theorem plan_nil_of_todo {f : Frame} (h : f.todo = []) (s : State) :
    plan [] f s = { s with seq := .busy f } := by
  rw [plan, ← h]
  rfl

theorem exec_updateMc_hash {s : State} {f : Frame} {list : List MacAddr}
    (h : At s f (.updateMc list) .hash) : exec (.updateMc list) s
      = .next (plan (hashSteps list s.h.mcFilterType) { f with point := .encode } s) := by
  rw [exec, execUpdateMc, command_at h, updateMcStep, h.point]

/-- Settles O30: the loop over the first 30 addresses is `settled_hashSteps`. -/
theorem updateMcHashesFirstThirty : Obligations.UpdateMcHashesFirstThirty := by
  intro s f list h hreq
  refine ⟨_, exec_updateMc_hash h, ?_⟩
  refine (settled_hashSteps (list.take 30) _ [] { f with point := .encode } s hreq).trans ?_
  rw [plan_nil_of_todo (by exact h.todo), List.length_take, Nat.min_comm]
  simp only [filterTypeValid_iff, List.nil_append]

/-! ## Admission (R170, R181, R212) -/

/-- The request an operation sends; UPDATE_MC's holds no vector before the hash loop (R173 to R180). -/
def operationRequest : Instr → Option Instr
  | .setMac a => some (.setMacReq a)
  | .setVlan vlanId vlanOn => some (.setVlanReq vlanId vlanOn)
  | .updateMc _ => some (.setMulticastReq [])
  | .setMacvlan x a => some (macvlanRequest x a)
  | .getReta => some .getRetaReq
  | .getRssKey => some .getRssKeyReq
  | .negotiateApi v => some (.apiNegotiateReq v)
  | _ => none

/-- UPDATE_MC hashes its addresses first, every other operation builds its request (R176). -/
def operationPoint : Instr → Point
  | .updateMc _ => .hash
  | _ => .encode

/-- The frame an operation is accepted in. -/
def operationFrame (i : Instr) : Frame := Frame.start i (operationPoint i) (operationRequest i) 0

theorem admitReady_ready {s : State} (h : s.h.fsm = .ready) (f : Frame) :
    admitReady f s = accepted s f := if_pos h

theorem admitReady_elsewhere {s : State} (h : s.h.fsm ≠ .ready) (f : Frame) :
    admitReady f s = { s with refusalMark := true } := if_neg h

section Admission

variable {s : State} (hs : s.seq = .idle)
include hs

/-- SET_MACVLAN is offered to `Ready` if its index fits in the info field (R102, U14). -/
theorem exec_setMacvlan_idle (x : Word) (a : MacAddr) : exec (.setMacvlan x a) s
    = .next (if x.toNat < 2 ^ s.cfg.codes.infoWidth then admitReady (operationFrame (.setMacvlan x a)) s
      else { s with refusalMark := true }) := by
  rw [exec, execSetMacvlan, command_idle hs]
  simp only [Instr.wellFormed, indexOk, decide_eq_true_eq]
  rfl

/-- The five operations without a support test are offered to `Ready` (R170). -/
theorem exec_operation_idle {i : Instr} (hop : isOperation i = true) (hreta : i ≠ .getReta)
    (hkey : i ≠ .getRssKey) (hfit : ∀ x a, i = .setMacvlan x a → x.toNat < 2 ^ s.cfg.codes.infoWidth) :
    exec i s = .next (admitReady (operationFrame i) s) := by
  cases i <;> simp only [isOperation, reduceCtorEq] at hop
  case setMac a => exact command_idle hs
  case setVlan vlanId vlanOn => exact command_idle hs
  case updateMc list => exact command_idle hs
  case setMacvlan x a => rw [exec_setMacvlan_idle hs, if_pos (hfit x a rfl)]
  case getReta => exact absurd rfl hreta
  case getRssKey => exact absurd rfl hkey
  case negotiateApi v => exact command_idle hs

/-- The two RSS queries are offered to the support test first (R178, R179). -/
theorem exec_query_idle {i : Instr} (hi : i = .getReta ∨ i = .getRssKey) :
    exec i s = .next (admitQuery (operationFrame i) s) := by
  obtain rfl | rfl := hi <;> exact command_idle hs

end Admission

/-- Settles O14: the operation is offered to `Ready` with its own frame, unless its index does not fit. -/
theorem operationAdmission : Obligations.OperationAdmission := by
  refine fun s i hs hop hreta hkey => ⟨fun hready hfit => ⟨operationFrame i, rfl, rfl, ?_, ?_⟩,
    fun hfsm => ?_, ?_⟩
  · rw [exec_operation_idle hs hop hreta hkey hfit, admitReady_ready hready]
  · refine ⟨?_, ?_, ?_, ?_, ?_⟩ <;> (intros; subst i; exact ⟨rfl, rfl, rfl⟩)
  · by_cases hfit : ∀ x a, i = .setMacvlan x a → x.toNat < 2 ^ s.cfg.codes.infoWidth
    · rw [exec_operation_idle hs hop hreta hkey hfit, admitReady_elsewhere hfsm]
    · push Not at hfit
      obtain ⟨x, a, rfl, hx⟩ := hfit
      rw [exec_setMacvlan_idle hs, if_neg (Nat.not_lt.2 hx)]
  · rintro x a rfl hx
    rw [exec_setMacvlan_idle hs, if_neg (Nat.not_lt.2 hx)]

theorem rssQuerySupported_iff {s : State} :
    rssQuerySupported s = true ↔ s.h.apiVersion ∈ s.cfg.apiRssSet ∧ s.cfg.gen = .g82599 := by
  simp [rssQuerySupported]

/-- Settles O15: the support test comes before the test of the control state. -/
theorem queryAdmission : Obligations.QueryAdmission := by
  intro s i hs hi
  rw [exec_query_idle hs hi]
  refine ⟨fun hno => ?_, fun hversion hgen hready => ⟨operationFrame i, rfl, ?_⟩,
    fun hversion hgen hfsm => ?_⟩
  · rw [admitQuery, if_neg (mt rssQuerySupported_iff.1 hno)]
    rfl
  · rw [admitQuery, if_pos (rssQuerySupported_iff.2 ⟨hversion, hgen⟩), admitReady_ready hready]
    obtain rfl | rfl := hi <;> exact ⟨rfl, rfl, rfl, rfl, rfl⟩
  · rw [admitQuery, if_pos (rssQuerySupported_iff.2 ⟨hversion, hgen⟩), admitReady_elsewhere hfsm]

/-! ## The waiting command's reading of `MSG` (R124, R172 to R182) -/

theorem InspectsReply.isOperation {i : Instr} (h : InspectsReply i) : isOperation i = true := by
  obtain ⟨_, rfl⟩ | ⟨_, _, rfl⟩ | ⟨_, rfl⟩ | rfl | rfl := h <;> rfl

theorem classify_positive_ack {c : Config.Codes} (hc : c.Ok) {w req0 : Word}
    (hreq : req0 &&& c.flagMask = 0#32) (h : w &&& ~~~c.flagCts = req0 ||| c.flagAck) :
    classify c w req0 c.flagAck c.flagNack = .positive :=
  (classify_positive_iff (or_flag_ne hc hreq (by simp [flagBits]) (by simp [flagBits])
    (flagAck_ne_flagNack hc))).2 h

theorem classify_positive_success {c : Config.Codes} (hc : c.Ok) {w req0 : Word}
    (hreq : req0 &&& c.flagMask = 0#32) (h : w &&& ~~~c.flagCts = req0 ||| c.flagSuccess) :
    classify c w req0 c.flagSuccess c.flagFailure = .positive :=
  (classify_positive_iff (or_flag_ne hc hreq (by simp [flagBits]) (by simp [flagBits])
    (flagSuccess_ne_flagFailure hc))).2 h

section Waiting

variable {s u v : State} {f : Frame} {i : Instr} {pos neg : Word}

/-- The outcome of the waiting command is read off its decoder. -/
theorem exec_decode_settles (h : At s f i .decode) (hop : isOperation i = true ∨ i = .reset)
    (hi : interpretReply f s.msg s = .next u) (hv : settled u = v) :
    ∃ t, exec i s = .next t ∧ settled t = v := ⟨u, by rw [exec_command_decode h hop, hi], hv⟩

/-- A negative word 0 ends an operation other than SET_MAC with its error. -/
theorem exec_decode_negative (h : At s f i .decode) (hi : InspectsReply i) (hmac : ∀ a, i ≠ .setMac a)
    (hf : verdictFlags s.cfg.codes i = (pos, neg))
    (hw : word0 s.msg &&& ~~~s.cfg.codes.flagCts = f.req0 ||| neg) :
    ∃ t, exec i s = .next t ∧ settled t = ended s s.h ⟨.error (refusalError i), .none⟩ := by
  obtain rfl := h.cmd
  obtain ⟨u, hu, hend⟩ := interpretReply_negative (s := s) hi hmac
    (by rw [verdictOn, hf, classify_negative hw])
  exact exec_decode_settles h (.inl hi.isOperation) hu hend

/-- Any other word 0 ends it with ProtocolMismatch. -/
theorem exec_decode_mismatch (h : At s f i .decode) (hi : InspectsReply i)
    (hf : verdictFlags s.cfg.codes i = (pos, neg))
    (hpos : word0 s.msg &&& ~~~s.cfg.codes.flagCts ≠ f.req0 ||| pos)
    (hneg : word0 s.msg &&& ~~~s.cfg.codes.flagCts ≠ f.req0 ||| neg) :
    ∃ t, exec i s = .next t ∧ settled t = ended s s.h ⟨.error .protocolMismatch, .none⟩ := by
  obtain rfl := h.cmd
  obtain ⟨u, hu, hend⟩ := interpretReply_mismatch (s := s) hi
    (by rw [verdictOn, hf, classify_mismatch hneg hpos])
  exact exec_decode_settles h (.inl hi.isOperation) hu hend

end Waiting

/-- Settles O22: the reset reply is compared with a request word without flags (R182). -/
theorem resetInterpretsReply : Obligations.ResetInterpretsReply := by
  refine fun s f h hc => ⟨fun w0 w1 w2 w3 more hmsg hw => ?_, fun hw => ?_⟩ <;>
    refine exec_decode_settles h (.inr rfl) (interpretReply_reset _ s h.cmd) ?_
  · have hreq := (wordZero_none (opReset_mem _) isVerdict_zero).mk0_and_flagMask hc
    rw [mk0_zero] at hreq
    rw [hmsg, settled_decodeReset_positive (ws := w0 :: w1 :: w2 :: w3 :: more)
      (classify_positive_ack hc hreq hw)]
    rfl
  · exact settled_decodeReset_bad (mt word_of_classify_positive hw)

/-- Settles O31: the reply's verdict, and the permanent address as it is read. -/
theorem setMacInterpretsReply : Obligations.SetMacInterpretsReply := by
  intro s f a h hc hreq
  have refused {b : MacAddr} {u : State}
      (hw : word0 s.msg &&& ~~~s.cfg.codes.flagCts = f.req0 ||| s.cfg.codes.flagNack)
      (hread : readPermAddr s = (b, u)) : ∃ t, exec (.setMac a) s = .next t ∧
        settled t = ended u { s.h with curAddr := b } ⟨.error .nacked, .none⟩ :=
    exec_decode_settles h (.inl rfl) (interpretReply_setMac _ s h.cmd)
      (settled_decodeSetMac_negative (classify_negative hw) hread)
  refine ⟨fun hw => ?_, fun hw hvalid => ?_, fun hw hvalid => ?_, fun hw hvalid b rest htape => ?_,
    fun hpos hneg => ?_⟩
  · exact exec_decode_settles h (.inl rfl) (interpretReply_setMac _ s h.cmd)
      (settled_decodeSetMac_positive (classify_positive_ack hc hreq hw))
  · exact refused hw (readPermAddr_valid hvalid)
  · obtain ⟨b, tape, drawn, hread⟩ := readPermAddr_invalid hvalid
    obtain ⟨t, ht⟩ := refused hw hread
    exact ⟨b, tape, drawn, t, ht⟩
  · exact refused hw (readPermAddr_tape hvalid htape)
  · exact exec_decode_mismatch h (.inl ⟨a, rfl⟩) (verdictFlags_other (by simp)) hpos hneg

/-- Settles O32: both commands look at the reply and compare it with the same two flags. -/
theorem macvlanAndNegotiateInterpretReply : Obligations.MacvlanAndNegotiateInterpretReply := by
  intro s f c h hc hreq
  refine ⟨fun hcmd => ?_, ?_, ?_⟩
  · have hi : InspectsReply c := .inr (hcmd.imp_right .inl)
    have hmac : ∀ a, c ≠ .setMac a := by obtain ⟨x, a, rfl⟩ | ⟨v, rfl⟩ := hcmd <;> simp
    have hquery : ¬ (c = .getReta ∨ c = .getRssKey) := by
      obtain ⟨x, a, rfl⟩ | ⟨v, rfl⟩ := hcmd <;> simp
    have hf := verdictFlags_other (c := s.cfg.codes) hquery
    refine ⟨fun hw => ?_, exec_decode_mismatch h hi hf⟩
    have hend := exec_decode_negative h hi hmac hf hw
    rwa [refusalError, if_neg hquery] at hend
  · rintro x a rfl hw
    exact exec_decode_settles h (.inl rfl) (interpretReply_setMacvlan _ s h.cmd)
      (settled_decodeSetMacvlan_positive (classify_positive_ack hc hreq hw))
  · rintro v rfl hw
    exact exec_decode_settles h (.inl rfl) (interpretReply_negotiateApi _ s h.cmd)
      (settled_decodeNegotiate_positive (classify_positive_ack hc hreq hw))

/-- Settles O33: both queries look at the reply and compare it with the queries' two flags. -/
theorem queriesInterpretReply : Obligations.QueriesInterpretReply := by
  intro s f c h hc hreq
  refine ⟨fun hcmd => ?_, ?_, ?_⟩
  · have hi : InspectsReply c := .inr (.inr (.inr hcmd))
    have hmac : ∀ a, c ≠ .setMac a := by obtain rfl | rfl := hcmd <;> simp
    have hf := verdictFlags_query (c := s.cfg.codes) hcmd
    refine ⟨fun hw => ?_, exec_decode_mismatch h hi hf⟩
    have hend := exec_decode_negative h hi hmac hf hw
    rwa [refusalError, if_pos hcmd] at hend
  · rintro rfl hreta hw
    exact exec_decode_settles h (.inl rfl) (interpretReply_getReta _ s h.cmd)
      (settled_decodeGetReta_positive hreta (classify_positive_success hc hreq hw))
  · rintro rfl hw
    exact exec_decode_settles h (.inl rfl) (interpretReply_getRssKey _ s h.cmd)
      (settled_decodeGetRssKey_positive (classify_positive_success hc hreq hw))

/-- Settles O34: the decoder of both commands is the same for every buffer, so for every reply row. -/
theorem uninspectedRepliesReturnOk : Obligations.UninspectedRepliesReturnOk := by
  intro s f c h hcmd
  obtain rfl := h.cmd
  have hop : isOperation f.cmd = true := by
    obtain ⟨_, _, hc⟩ | ⟨_, hc⟩ := hcmd <;> rw [hc] <;> rfl
  have row {r : Instr} (hg : r.group = .reply) :
      ∃ t, exec r s = .next t ∧ settled t = ended s s.h ⟨.ok, .none⟩ :=
    exec_reply_settles h hg (interpretReply_uninspected _ s hcmd) settled_decodeUninspected
  exact ⟨exec_decode_settles h (.inl hop) (interpretReply_uninspected _ s hcmd) settled_decodeUninspected,
    fun cts b n => ⟨row rfl, row rfl, row rfl, row rfl⟩⟩

end Sys2Proof.Machine
end

section
/-!
The control commands one point at a time (42_control_fsm.md): admission of the commands that need no control
state and of RESET, the steps of STOP and RESET, and the ends of START and INIT.
-/

namespace Sys2Proof.Machine

open Sys2Proof

/-! ## Admission (R212) -/

/-- The point at which a command that is always admitted begins: STOP at its first queue, or at the mask when
there is none, CHECK_LINK at its sample of `MBX`, the others at their one point. -/
def firstPoint (i : Instr) (s : State) : Point :=
  if i = .stop then if s.cfg.numQueues = 0 then .maskWrite else .txRead
  else if i = .checkLink then .indicatorRead else .run

theorem stopNext_zero (s : State) :
    stopNext 0 s = if s.cfg.numQueues = 0 then .maskWrite else .txRead := by
  unfold stopNext
  cases s.cfg.numQueues <;> rfl

/-- The frame RESET is accepted in: the transition to `Resetting` is its first update (R211). -/
def resetFrame : Frame :=
  { Frame.start .reset .ctrlWrite (some .resetReq) 0 with todo := [.fsm .resetting] }

section Admission

variable {s : State} (hs : s.seq = .idle)
include hs

/-- The six commands that are admitted in every control state (R212). -/
theorem exec_always_idle {i : Instr} (hi : i = .stop ∨ i = .start ∨ i = .init ∨ i = .checkLink ∨
      (∃ a t, i = .mtaVector a t) ∨ ∃ r, i = .readHandle r) :
    exec i s = .next (accepted s (Frame.start i (firstPoint i s) none 0)) := by
  obtain rfl | rfl | rfl | rfl | ⟨a, t, rfl⟩ | ⟨r, rfl⟩ := hi
  case inl => rw [firstPoint, if_pos rfl, ← stopNext_zero]; exact command_idle hs
  all_goals exact command_idle hs

/-- RESET is offered to `Stopped` with the stopped flag set (R212). -/
theorem exec_reset_idle : exec .reset s
    = .next (if s.h.fsm = .stopped ∧ s.h.adapterStopped = true then
        accepted s resetFrame
      else { s with refusalMark := true }) := by
  rw [exec, execReset, command_idle hs]; rfl

end Admission

/-- Settles O12: each of the six admissions is an acceptance. -/
theorem alwaysAdmittedCommands : Obligations.AlwaysAdmittedCommands :=
  fun s i hs hi => ⟨Frame.start i (firstPoint i s) none 0, rfl, rfl, rfl, rfl, exec_always_idle hs hi⟩

/-- A RESET just accepted goes over to `Resetting` first (R211). -/
theorem settled_accepted_reset {s : State} : settled (accepted s resetFrame)
    = accepted { s with h := { s.h with fsm := .resetting } } { resetFrame with todo := [] } := by
  have hplan : accepted s resetFrame = plan [.fsm .resetting] resetFrame (hostReceive s) := rfl
  rw [hplan, settled_plan_fsm, settled_plan_nil]
  rfl

/-- Settles O13: the admission test of RESET, and the one update it is accepted with. -/
theorem resetAdmission : Obligations.ResetAdmission := by
  refine fun s hs => ⟨fun hfsm => ?_, fun hfsm => ?_⟩
  · refine ⟨resetFrame, rfl, rfl, rfl, rfl, rfl, ?_, settled_accepted_reset⟩
    rw [exec_reset_idle hs, if_pos hfsm]
  · rw [exec_reset_idle hs, if_neg]
    rintro ⟨hstopped, hflag⟩
    obtain hne | hclear := hfsm
    · exact hne hstopped
    · simp [hflag] at hclear

/-! ## START and INIT (R215, R216) -/

theorem exec_start_at {s : State} {f : Frame} (h : At s f .start .run) :
    exec .start s = .next (perform [.stopped false, returnOk (.value .none)] f s) := by
  rw [exec, execStart, command_at h, startStep, h.point]

theorem exec_init_at {s : State} {f : Frame} (h : At s f .init .run) :
    exec .init s = .next (perform [.stopped false, .curFromPerm, returnOk (.value .none)] f s) := by
  rw [exec, execInit, command_at h, initStep, h.point]

/-- Settles O17: START makes one update and returns. -/
theorem startClearsStoppedFlag : Obligations.StartClearsStoppedFlag := by
  refine fun s => ⟨fun hs => ⟨Frame.start .start .run none 0, rfl, rfl, ?_⟩,
    fun f h => ⟨_, exec_start_at h, ?_⟩⟩
  · exact exec_always_idle hs (.inr (.inl rfl))
  · rw [settled_perform, settled_plan_stopped, settled_plan_returnOk]
    rfl

/-- INIT ends with the permanent address as it is read once the stopped flag is clear (R21, R216). -/
theorem exec_init_settles {s u : State} {f : Frame} {a : MacAddr} (h : At s f .init .run)
    (hread : readPermAddr (runPrim (.stopped false) s) = (a, u)) :
    ∃ t, exec .init s = .next t ∧ settled t
      = ended u { s.h with adapterStopped := false, curAddr := a } ⟨.ok, .none⟩ := by
  refine ⟨_, exec_init_at h, ?_⟩
  simp only [runPrim, State.modHandle] at hread
  rw [settled_perform, settled_plan_stopped, settled_plan_curFromPerm, settled_plan_returnOk, hread]
  rfl

/-- Settles O18: the address copied is the one a read of the permanent address gives. -/
theorem initCopiesPermanentAddress : Obligations.InitCopiesPermanentAddress := by
  refine fun s f h => ⟨fun a rest hv ht => ?_, fun hv => ?_, fun hv => ?_⟩
  · exact (exec_init_settles h (readPermAddr_tape (s := runPrim (.stopped false) s) hv ht) :)
  · exact (exec_init_settles h (readPermAddr_valid (s := runPrim (.stopped false) s) hv) :)
  · obtain ⟨a, tape, drawn, hread⟩ := readPermAddr_invalid (s := runPrim (.stopped false) s) hv
    obtain ⟨t, ht, hend⟩ := exec_init_settles h hread
    exact ⟨a, tape, drawn, t, ht, hend⟩

/-! ## The steps of STOP (R213) -/

section Stop

variable {s : State} {f : Frame}

/-- At a point of STOP its pseudocode runs there. -/
theorem exec_stop_at {p : Point} (h : At s f .stop p) :
    exec .stop s = stopStep { f with point := p } s := by
  rw [h.frame_eq, exec, execStop, command_at h]

theorem exec_txRead (h : At s f .stop .txRead) : exec .stop s = .next { (regRead (.txdctl f.i) s).2 with
    seq := .busy { f with v := (regRead (.txdctl f.i) s).1, point := .txWrite } } := exec_stop_at h

theorem exec_rxRead (h : At s f .stop .rxRead) : exec .stop s = .next { (regRead (.rxdctl f.i) s).2 with
    seq := .busy { f with v := (regRead (.rxdctl f.i) s).1, point := .rxWrite } } := exec_stop_at h

theorem exec_txWrite (h : At s f .stop .txWrite) : exec .stop s = .next
    { regWrite (.txdctl f.i) (clearEnable s.cfg.window f.v) s with
      seq := .busy { f with point := .rxRead } } := exec_stop_at h

theorem exec_rxWrite (h : At s f .stop .rxWrite) : exec .stop s = .next
    { regWrite (.rxdctl f.i) (clearEnable s.cfg.window f.v) s with
      seq := .busy { f with i := f.i + 1, point := stopNext (f.i + 1) s } } := exec_stop_at h

theorem exec_maskWrite (h : At s f .stop .maskWrite) : exec .stop s = .next
    { regWrite .intMask 0#32 s with seq := .busy { f with point := .stopFlush } } := exec_stop_at h

theorem exec_stopFlush (h : At s f .stop .stopFlush) : exec .stop s = .next
    { flush s with seq := .busy { f with point := .stopDone } } := exec_stop_at h

theorem exec_stopDone (h : At s f .stop .stopDone) : exec .stop s
    = .next (perform [.stopped true, .fsm .stopped, returnOk (.value .none)]
        { f with point := .stopDone } s) := exec_stop_at h

/-- The three last updates of STOP: the flag, the control state and the return (R213). -/
theorem settled_stopDone (g : Frame) :
    settled (perform [.stopped true, .fsm .stopped, returnOk (.value .none)] g s)
      = ended s { s.h with adapterStopped := true, fsm := .stopped } ⟨.ok, .none⟩ := by
  rw [settled_perform, settled_plan_stopped, settled_plan_fsm, settled_plan_returnOk]
  rfl

end Stop

/-- Settles O21: each step of STOP is one access, and its last three updates end it. -/
theorem stopMarksStopped : Obligations.StopMarksStopped := by
  refine fun s f => ⟨exec_txRead, fun h => ?_, exec_rxRead, fun h => ?_, fun h => ?_, exec_stopFlush,
    fun h => ⟨_, exec_stopDone h, settled_stopDone _⟩⟩
  · rw [exec_txWrite h, regWrite_eq]; rfl
  · rw [exec_rxWrite h, regWrite_eq]; rfl
  · rw [exec_maskWrite h, regWrite_eq]; rfl

/-! ## The steps of RESET (R214) -/

section Reset

variable {s : State} {f : Frame}

/-- At a point of RESET its pseudocode runs there. -/
theorem exec_reset_at {p : Point} (h : At s f .reset p) :
    exec .reset s = resetStep { f with point := p } s := by
  rw [h.frame_eq, exec, execReset, command_at h]

theorem exec_ctrlWrite (h : At s f .reset .ctrlWrite) : exec .reset s = .next
    { regWrite .ctrl (bitMask s.cfg.window.ctrlRst) s with
      seq := .busy { f with point := .ctrlFlush } } := exec_reset_at h

theorem exec_ctrlFlush (h : At s f .reset .ctrlFlush) : exec .reset s = .next
    { flush s with seq := .busy { f with point := .settle } } := exec_reset_at h

theorem exec_settle (h : At s f .reset .settle) : exec .reset s = .next { s with
    seq := .busy { f with n := some s.cfg.rstPollMax, point := .rstSample } } := exec_reset_at h

theorem exec_rstSample (h : At s f .reset .rstSample) : exec .reset s = .next { (regRead .mbx s).2 with
    seq := .busy { f with v := (regRead .mbx s).1, point := .rstTest } } := exec_reset_at h

theorem exec_rstTest (h : At s f .reset .rstTest) : exec .reset s = .next (resetTests f s) := by
  have hstep : exec .reset s = .next (resetTests { f with point := .rstTest } s) := exec_reset_at h
  rwa [h.frame_eq] at hstep

theorem exec_rstDelay (h : At s f .reset .rstDelay) : exec .reset s = .next { s with
    seq := .busy { f with point := .rstSample } } := exec_reset_at h

theorem exec_arm (h : At s f .reset .arm) : exec .reset s
    = .next (perform [.mbxTimeout s.cfg.mbxInitTimeout, .apiVersion s.cfg.apiBase]
        { f with point := .encode } s) := exec_reset_at h

theorem exec_await (h : At s f .reset .await) : exec .reset s = .next { s with
    h := { s.h with fsm := .awaitingPermAddr }, seq := .busy { f with point := .replySettle } } := by
  have hstep : exec .reset s
      = .next (perform [.fsm .awaitingPermAddr] { f with point := .replySettle } s) := exec_reset_at h
  rw [hstep, perform_cons, plan_nil_of_todo (by exact h.todo)]
  rfl

theorem settled_resetFails (g : Frame) (e : ErrorKind) (s : State) :
    settled (resetFails g e s)
      = ended s { s.h with macValid := false, fsm := .stopped } ⟨.error e, .none⟩ := by
  rw [resetFails, settled_plan_macValid, settled_plan_fsm, settled_plan_raise]
  rfl

/-- The tests of RESET's indicator loop, one equation an outcome (R214). -/
theorem resetTests_gone (h : s.h.removed = true) : resetTests f s = resetFails f .deviceRemoved s :=
  if_pos h

theorem resetTests_cleared (hr : s.h.removed = false) (hv : showsReset s.cfg.window f.v = false) :
    resetTests f s = s.goto f .arm := by
  simp [resetTests, hr, hv]

theorem resetTests_last {k : Nat} (hr : s.h.removed = false) (hv : showsReset s.cfg.window f.v = true)
    (hn : f.n = some k) (hk : k ≤ 1) : resetTests f s = resetFails f .resetTimeout s := by
  simp [resetTests, hr, hv, hn, Nat.sub_eq_zero_of_le hk]

theorem resetTests_again {k : Nat} (hr : s.h.removed = false) (hv : showsReset s.cfg.window f.v = true)
    (hn : f.n = some k) (hk : 1 < k) :
    resetTests f s = s.setFrame { f with n := some (k - 1), point := .rstDelay } := by
  simp [resetTests, hr, hv, hn, Nat.sub_ne_zero_of_lt hk]

end Reset

/-- Settles O23: the four outcomes of one test. -/
theorem resetIndicatorLoop : Obligations.ResetIndicatorLoop := by
  refine fun s f k h hn => ⟨fun hr => ⟨_, exec_rstTest h, ?_⟩, fun hr hv => ?_,
    fun hr hv hk => ⟨_, exec_rstTest h, ?_⟩, fun hr hv hk => ?_⟩
  · rw [resetTests_gone hr, settled_resetFails]
  · rw [exec_rstTest h, resetTests_cleared hr hv]; rfl
  · rw [resetTests_last hr hv hn (Nat.le_of_eq hk), settled_resetFails]
  · rw [exec_rstTest h, resetTests_again hr hv hn hk]; rfl

/-- Settles O24: each of these points is one access, one delay, or known updates. -/
theorem resetWritesOnTheWay : Obligations.ResetWritesOnTheWay := by
  refine fun s f => ⟨fun h hr => ?_, fun h hr => ?_, exec_ctrlFlush, exec_rstDelay, exec_reset_at,
    exec_settle, exec_rstSample, fun h => ⟨_, exec_arm h, ?_⟩, exec_await⟩
  · rw [exec_ctrlWrite h, regWrite_live hr]; rfl
  · rw [exec_ctrlWrite h, regWrite_short hr]
  · rw [settled_perform, settled_plan_mbxTimeout, settled_plan_apiVersion, settled_plan_nil,
      plan_nil_of_todo (by exact h.todo)]

end Sys2Proof.Machine
end

section
/-!
The transition table of the control state (R211): which updates leave `H.fsm` alone, and what a step with
nothing pending decides about it, from the transport's points to the whole machine.
-/

namespace Sys2Proof.Machine

open Sys2Proof

/-! ## Updates that leave the control state alone -/

theorem Quiet.fsm {s t : State} (h : Quiet s t) : t.h.fsm = s.h.fsm := by rw [h.h]

theorem runPrim_fsm {p : Prim} (hp : p.setsFsm = false) (s : State) : (runPrim p s).h.fsm = s.h.fsm := by
  cases p with
  | fsm x => cases hp
  | anyBuf i => simp only [runPrim]; split <;> simp
  | hash v => simp only [runPrim]; split <;> simp
  | _ => simp [runPrim]

/-- Updates none of which writes the control state lead to the same control state (R35). -/
theorem settled_plan_keeps_fsm {ps : List Prim} (h : ps.countP Prim.setsFsm = 0) (f : Frame) (s : State) :
    (settled (plan ps f s)).h.fsm = s.h.fsm := by
  induction ps generalizing f s with
  | nil => rw [settled_plan_nil]; rfl
  | cons p ps ih =>
    rw [List.countP_cons] at h
    obtain ⟨hps, hp⟩ := Nat.add_eq_zero_iff.1 h
    have hnow : (runPrim p (plan ps f s)).h.fsm = s.h.fsm := runPrim_fsm (by simpa using hp) _
    rw [settled_plan_cons]
    cases hend : p.isEnd with
    | true => rw [settled_idle ((runPrim_idle (plan_seq ps f s)).2 hend), hnow]
    | false =>
      obtain ⟨r, hr⟩ := runPrim_busy (plan_seq ps f s) hend
      have heq : runPrim p (plan ps f s) = plan ps { f with req := r } (runPrim p (plan ps f s)) := by
        simp only [plan, State.setFrame, ← hr]
      rw [heq, ih hps, hnow]

/-- A pending write of the control state is the last one of its list: it gives the state decided (R211,
assumption 6). -/
theorem runNext_written {s : State} (h : PendingOk s) :
    (runNext s).h.fsm = s.h.fsm ∨ (runNext s).h.fsm = (settled s).h.fsm := by
  rw [← settled_runNext s]
  cases hs : s.seq with
  | idle => exact .inl (by rw [runNext_settled fun f hf => by rw [hs] at hf; cases hf])
  | busy f =>
    obtain ⟨-, -, -, hcount⟩ := h f hs
    cases hps : f.todo with
    | nil => exact .inl (by rw [runNext_settled fun g hg => by rw [hs] at hg; cases hg; exact hps])
    | cons p ps =>
      rw [runNext_cons hs hps]
      cases hp : p.setsFsm with
      | false => exact .inl (runPrim_fsm hp _)
      | true =>
        rw [hps, List.countP_cons, if_pos hp] at hcount
        have hrest : ps.countP Prim.setsFsm = 0 := by omega
        cases p with
        | fsm x => exact .inr (settled_plan_keeps_fsm hrest f (s.modHandle fun h => { h with fsm := x })).symm
        | _ => cases hp

/-! ## The rows of the table (R211) -/

/-- The pending updates lead to the end of the command, with this handle and status and no outputs. -/
structure EndsWith (t : State) (h : Handle) (status : Status) : Prop where
  handle : (settled t).h = h
  idle : (settled t).seq = .idle
  result : (settled t).result = some ⟨status, .none⟩

theorem endsWith_of_settled {t u : State} {h : Handle} {status : Status}
    (ht : settled t = ended u h ⟨status, .none⟩) : EndsWith t h status := by
  constructor <;> rw [ht] <;> rfl

/-- The timeout is armed and the version set back (R24, R149). -/
def Armed (t : State) : Prop :=
  t.h.mbxTimeout = t.cfg.mbxInitTimeout ∧ t.h.apiVersion = t.cfg.apiBase

/-- The execution of `i` in `s`, which leads to `t`, decides a transition of the table (R211). -/
inductive Transition (i : Instr) (s t : State) : Prop
  | stop {f : Frame} (hat : At s f .stop .stopDone)
      (hend : EndsWith t { s.h with fsm := .stopped, adapterStopped := true } .ok)
  | reset (hi : i = .reset) (hs : s.seq = .idle) (hfsm : s.h.fsm = .stopped)
      (hflag : s.h.adapterStopped = true) (hh : (settled t).h = { s.h with fsm := .resetting })
  | indicator {f : Frame} {e : ErrorKind} (hat : At s f .reset .rstTest) (hfsm : s.h.fsm = .resetting)
      (he : e = .resetTimeout ∨ e = .deviceRemoved)
      (hend : EndsWith t { s.h with fsm := .stopped, macValid := false } (.error e))
  | await {f : Frame} (hat : At s f .reset .await) (hfsm : s.h.fsm = .resetting)
      (hh : (settled t).h = { s.h with fsm := .awaitingPermAddr }) (harm : Armed t)
  | fails {f : Frame} {e : ErrorKind} (hs : s.seq = .busy f) (hc : f.cmd = .reset)
      (hfsm : s.h.fsm = .resetting ∨ s.h.fsm = .awaitingPermAddr)
      (hend : EndsWith t { s.h with fsm := .ready, macValid := false } (.error e)) (harm : Armed t)
      (he : e ∈ transportErrors ∨
        e = .invalidMacAddr ∧ s.h.fsm = .awaitingPermAddr ∧ At s f .reset .decode)
  | ready {f : Frame} (hat : At s f .reset .decode) (hfsm : s.h.fsm = .awaitingPermAddr)
      (hend : EndsWith t { s.h with
        fsm := .ready
        macValid := true
        permAddr := (settled t).h.permAddr
        mcFilterType := (settled t).h.mcFilterType } .ok)

/-- What the execution of `i` decides: it leads to the same control state, or a row of the table; and a write
of the control state gives the state decided. -/
structure Decides (i : Instr) (s t : State) : Prop where
  written : t.h.fsm = s.h.fsm ∨ t.h.fsm = (settled t).h.fsm
  decided : (settled t).h.fsm = s.h.fsm ∨ Transition i s t

section Decides

variable {i : Instr} {s t u : State} {f g : Frame}

theorem Decides.of_quiet (h : Quiet s t) (hd : (settled t).h.fsm = s.h.fsm ∨ Transition i s t) :
    Decides i s t := ⟨.inl h.fsm, hd⟩

/-- A quiet change with nothing pending afterwards. -/
theorem Decides.rests (h : Quiet s t) (ht : settled t = t) : Decides i s t :=
  .of_quiet h (.inl (by rw [ht, h.fsm]))

theorem Decides.moves (h : Quiet s u) (hg : g.todo = []) : Decides i s (u.setFrame g) :=
  .rests (h.setFrame g) (settled_none rfl hg)

theorem Decides.plan (h : Quiet s u) {ps : List Prim} (hps : ps.countP Prim.setsFsm = 0) :
    Decides i s (plan ps g u) :=
  .of_quiet (h.plan ps g) (.inl (by rw [settled_plan_keeps_fsm hps, h.fsm]))

theorem Decides.perform (h : Quiet s u) {ps : List Prim} (hps : ps.countP Prim.setsFsm = 0) :
    Decides i s (perform ps g u) where
  written := by
    cases ps with
    | nil => exact .inl h.fsm
    | cons p ps =>
      rw [List.countP_cons] at hps
      exact .inl ((runPrim_fsm (by simpa using (Nat.add_eq_zero_iff.1 hps).2) _).trans h.fsm)
  decided := .inl (by rw [settled_perform, settled_plan_keeps_fsm hps, h.fsm])

/-- Where nothing is pending, the state is settled. -/
theorem settled_of_todo (hn : ∀ f, s.seq = .busy f → f.todo = []) : settled s = s := by
  cases hs : s.seq with
  | idle => exact settled_idle hs
  | busy f => exact settled_none hs (hn f hs)

/-- A quiet change that leaves a sequencer with nothing pending alone. -/
theorem Decides.aside (hn : ∀ f, s.seq = .busy f → f.todo = []) (h : Quiet s t) (ht : t.seq = s.seq) :
    Decides i s t := .rests h (settled_of_todo (by rwa [ht]))

theorem Decides.refuse (hn : ∀ f, s.seq = .busy f → f.todo = []) : Decides i s (refuse s) :=
  .aside hn (quiet_refuse s) rfl

/-! ## The transport (R141 to R144) -/

/-- A step in `f` at a point of a contract fails with one of the three transport errors, or leads to the same
control state. -/
def FailsOrKeeps (f : Frame) (s t : State) : Prop :=
  (settled t).h.fsm = s.h.fsm ∨
    ∃ use e, onSide use f.point = true ∧ e ∈ transportErrors ∧ t = transportRaise f use e s

theorem failsOrKeeps_moves (h : Quiet s u) (hg : g.todo = []) : FailsOrKeeps f s (u.setFrame g) :=
  .inl (by rw [settled_none rfl hg]; exact h.fsm)

theorem failsOrKeeps_returns (out : Returned) : FailsOrKeeps f s (Machine.plan [returnOk out] g s) :=
  .inl (by rw [settled_plan_returnOk]; rfl)

theorem failsOrKeeps_removalTest {use : Use} (hp : onSide use f.point = true) {goOn : State → State}
    (h : FailsOrKeeps f s (goOn s)) : FailsOrKeeps f s (removalTest f use goOn s) := by
  unfold removalTest
  split
  · exact .inr ⟨use, .deviceRemoved, hp, by decide, rfl⟩
  · exact h

theorem failsOrKeeps_pollTests (hf : f.todo = []) {use : Use} (hp : onSide use f.point = true)
    (awaited : Bool) {onSuccess : State → State} (h : FailsOrKeeps f s (onSuccess s)) (again : Point) :
    FailsOrKeeps f s (pollTests f use awaited onSuccess again s) := by
  obtain ⟨e, he, heq⟩ | ⟨_, _, _, heq⟩ | ⟨_, heq⟩ | ⟨k, _, heq⟩ :=
    pollTests_cases f use awaited onSuccess again s <;> rw [heq]
  · exact .inr ⟨use, e, hp, he, rfl⟩
  · exact h
  · exact failsOrKeeps_moves (.refl s) hf
  · exact failsOrKeeps_moves (.refl s) hf

theorem failsOrKeeps_afterLock (hf : f.todo = []) (use : Use) : FailsOrKeeps f s (afterLock f use s) := by
  cases use <;> exact failsOrKeeps_moves (.refl s) hf

theorem failsOrKeeps_afterPost (hf : f.todo = []) : FailsOrKeeps f s (afterPost f s) := by
  unfold afterPost
  split
  · exact failsOrKeeps_returns _
  · exact failsOrKeeps_moves (.refl s) hf
  · exact failsOrKeeps_moves (.refl s) hf

theorem failsOrKeeps_afterRead (hf : f.todo = []) : FailsOrKeeps f s (afterRead f s) := by
  unfold afterRead
  split
  · exact failsOrKeeps_returns _
  · exact failsOrKeeps_returns _
  · exact failsOrKeeps_moves (.refl s) hf

theorem failsOrKeeps_transportStep (hf : f.todo = []) (h : transportStep f s = .next t) :
    FailsOrKeeps f s t := by
  have stays (q : Point) : FailsOrKeeps f s (s.goto f q) := failsOrKeeps_moves (.refl s) hf
  unfold transportStep at h
  split at h
  · split at h <;> cases h
    exact .inl (by rw [stageRequest_settled _ hf]; rfl)
  all_goals cases h
  all_goals rename_i hp
  · exact failsOrKeeps_removalTest (hp ▸ rfl) (stays _)
  · exact failsOrKeeps_moves (.refl s) hf
  · exact failsOrKeeps_moves (quiet_regWrite _ _ s) hf
  · exact failsOrKeeps_moves (quiet_regRead _ s) hf
  · exact failsOrKeeps_pollTests hf (hp ▸ onSide_lockTest _) _ (failsOrKeeps_afterLock hf _) _
  · exact stays _
  · exact failsOrKeeps_moves (quiet_regWrite _ _ s) hf
  · exact failsOrKeeps_moves (quiet_regWrite _ _ s) hf
  · exact failsOrKeeps_moves (quiet_flush s) hf
  · exact failsOrKeeps_removalTest (hp ▸ rfl) (failsOrKeeps_afterPost hf)
  · exact failsOrKeeps_removalTest (hp ▸ rfl) (stays _)
  · exact failsOrKeeps_moves (.refl s) hf
  · exact failsOrKeeps_moves (quiet_regRead _ s) hf
  · exact failsOrKeeps_pollTests hf (hp ▸ rfl) _ (stays _) _
  · exact stays _
  · exact failsOrKeeps_moves (quiet_regRead _ s) hf
  · exact failsOrKeeps_moves (quiet_storeWord _ _ _ s) hf
  · exact failsOrKeeps_removalTest (hp ▸ rfl) (failsOrKeeps_moves (.refl s) hf)
  · exact failsOrKeeps_moves (quiet_regWrite _ _ s) hf
  · exact failsOrKeeps_moves (quiet_flush s) hf
  · exact failsOrKeeps_removalTest (hp ▸ rfl) (failsOrKeeps_afterRead hf)

/-- A command other than RESET exchanges messages in one control state (R172). -/
theorem decides_transportStep (hf : f.todo = []) (hc : f.cmd ≠ .reset) (h : transportStep f s = .next t) :
    Decides i s t := by
  refine .of_quiet (quiet_transportStep h) (.inl ?_)
  obtain hkeep | ⟨use, e, -, -, rfl⟩ := failsOrKeeps_transportStep hf h
  · exact hkeep
  · obtain ⟨-, -, hh, -⟩ := settled_transportRaise f use e s
    rw [hh, failedHandle, if_neg hc]

/-! ## The decoders of the operations -/

theorem decides_decodeSetMac (addr : MacAddr) (ws : List Word) : Decides i s (decodeSetMac addr f ws s) := by
  unfold decodeSetMac; split <;> exact .plan (.refl s) rfl

theorem decides_decodeUninspected (ws : List Word) : Decides i s (decodeUninspected f ws s) :=
  .plan (.refl s) rfl

theorem decides_decodeSetMacvlan (ws : List Word) : Decides i s (decodeSetMacvlan f ws s) := by
  unfold decodeSetMacvlan; split <;> exact .plan (.refl s) rfl

theorem retaWrites_countP (es : List (BitVec 2)) (k : Nat) :
    (retaWrites k es).countP Prim.setsFsm = 0 := by
  induction es generalizing k with
  | nil => rfl
  | cons e es ih => exact (List.countP_cons_of_neg (by simp [Prim.setsFsm])).trans (ih (k + 1))

theorem decides_decodeGetReta (ws : List Word) : Decides i s (decodeGetReta f ws s) := by
  unfold decodeGetReta
  split
  · exact .plan (.refl s) rfl
  · exact .plan (.refl s) (by rw [List.countP_append, retaWrites_countP]; rfl)
  · exact .plan (.refl s) rfl

theorem decides_decodeGetRssKey (ws : List Word) : Decides i s (decodeGetRssKey f ws s) := by
  unfold decodeGetRssKey; split <;> exact .plan (.refl s) rfl

theorem decides_decodeNegotiate (ws : List Word) : Decides i s (decodeNegotiate f ws s) := by
  unfold decodeNegotiate; split <;> exact .plan (.refl s) rfl

theorem decides_operation {interpret : Frame → List Word → State → State} (hf : f.todo = [])
    (hc : f.cmd ≠ .reset) (hi : Decides i s (interpret f s.msg s))
    (h : operation interpret f s = .next t) : Decides i s t := by
  unfold operation at h
  split at h
  · cases h; exact hi
  · exact decides_transportStep hf hc h

/-! ## RESET (R211, R214) -/

theorem Running.at (h : Running s f) {c : Instr} (hc : f.cmd = c) {p : Point} (hp : f.point = p) :
    At s f c p := ⟨h.seq, hc, hp, h.todo⟩

/-- The control state of RESET at a point of its own (R211). -/
theorem Running.phase (h : Running s f) (hc : f.cmd = .reset) {p : Point} (hp : f.point = p) :
    s.h.fsm = resetPhase p := hp ▸ h.control.phase f h.seq hc

/-- From `arm` on the timeout of RESET is armed and the version set back, and a quiet step leaves that (R24,
R214). -/
theorem Running.armedAfter (h : Running s f) (hc : f.cmd = .reset) (ha : afterArm f.point = true)
    (hq : Quiet s t) : Armed t := by
  refine ⟨?_, ?_⟩ <;> rw [hq.h, hq.cfg]
  · exact h.armed hc ha
  · exact h.control.rebased f h.seq hc ha

theorem Running.decides_resetTests (h : Running s f) (hc : f.cmd = .reset) (hp : f.point = .rstTest) :
    Decides i s (Machine.resetTests f s) := by
  have fails {e : ErrorKind} (he : e = .resetTimeout ∨ e = .deviceRemoved) :
      Decides i s (resetFails f e s) :=
    .of_quiet ((Quiet.refl s).plan _ _)
      (.inr (.indicator (h.at hc hp) (h.phase hc hp) he (endsWith_of_settled (settled_resetFails f e s))))
  unfold Machine.resetTests
  split
  · exact fails (.inr rfl)
  · split
    · exact .moves (.refl s) h.todo
    · split
      · exact .moves (.refl s) h.todo
      · split
        · exact fails (.inl rfl)
        · exact .moves (.refl s) h.todo

/-- The reply is the reset's, and RESET is `Ready` with a valid address, or it is not, and RESET is `Ready`
without one (R182, R214, R258). -/
theorem Running.decides_decodeReset (h : Running s f) (hc : f.cmd = .reset) (hp : f.point = .decode)
    (ws : List Word) : Decides i s (Machine.decodeReset f ws s) := by
  refine .of_quiet (quiet_decodeReset f ws s) (.inr ?_)
  have hat := h.at hc hp
  have hfsm : s.h.fsm = .awaitingPermAddr := h.phase hc hp
  by_cases hv : classify s.cfg.codes (word0 ws) s.cfg.codes.opReset s.cfg.codes.flagAck
      s.cfg.codes.flagNack = .positive
  · have hend := settled_decodeReset_positive (f := f) hv
    refine .ready hat hfsm (endsWith_of_settled (u := s) ?_)
    rw [hend]
    rfl
  · exact .fails h.seq hc (.inr hfsm) (endsWith_of_settled (settled_decodeReset_bad hv))
      (h.armedAfter hc (hp ▸ rfl) (quiet_decodeReset f ws s)) (.inr ⟨rfl, hfsm, hat⟩)

/-- A contract of RESET that fails leaves `Ready` without a valid address (R214). -/
theorem Running.decides_transportStep (h : Running s f) (hc : f.cmd = .reset)
    (ht : Machine.transportStep f s = .next t) : Decides i s t := by
  have hq := quiet_transportStep ht
  refine .of_quiet hq ?_
  obtain hkeep | ⟨use, e, hp, he, rfl⟩ := failsOrKeeps_transportStep h.todo ht
  · exact .inl hkeep
  · obtain ⟨hidle, hresult, hh, -⟩ := settled_transportRaise f use e s
    rw [failedHandle, if_pos hc] at hh
    have hphase : s.h.fsm = sidePhase use := by rw [h.phase hc rfl, resetPhase_onSide hp]
    refine .inr (.fails h.seq hc ?_ ⟨hh, hidle, hresult⟩ (h.armedAfter hc (afterArm_of_onSide hp) hq)
      (.inl he))
    cases use with
    | post => exact .inl hphase
    | read => exact .inr hphase

/-- Posting the request leads to `AwaitingPermAddr`, in one step (R211). -/
theorem Running.decides_await (h : Running s f) (hc : f.cmd = .reset) (hp : f.point = .await) :
    Decides i s (Machine.perform [.fsm .awaitingPermAddr] { f with point := .replySettle } s) := by
  obtain ⟨htime, hversion⟩ := h.armedAfter hc (hp ▸ rfl) (.refl s)
  have hrest : settled (Machine.perform [.fsm .awaitingPermAddr] { f with point := .replySettle } s)
      = Machine.perform [.fsm .awaitingPermAddr] { f with point := .replySettle } s :=
    settled_none (f := { f with point := .replySettle, todo := [] }) rfl rfl
  exact ⟨.inr (by rw [hrest]),
    .inr (.await (h.at hc hp) (h.phase hc hp) (by rw [hrest]; rfl) ⟨htime, hversion⟩)⟩

theorem Running.decides_resetStep (h : Running s f) (hc : f.cmd = .reset)
    (ht : Machine.resetStep f s = .next t) : Decides i s t := by
  unfold Machine.resetStep at ht
  split at ht
  case h_11 => exact h.decides_transportStep hc ht
  all_goals cases ht
  all_goals rename_i hp
  · exact .moves (quiet_regWrite _ _ s) h.todo
  · exact .moves (quiet_flush s) h.todo
  · exact .moves (.refl s) h.todo
  · exact .moves (quiet_regRead _ s) h.todo
  · exact h.decides_resetTests hc hp
  · exact .moves (.refl s) h.todo
  · exact .perform (.refl s) rfl
  · exact h.decides_await hc hp
  · exact .moves (.refl s) h.todo
  · exact h.decides_decodeReset hc hp _

/-! ## The other commands -/

theorem Running.decides_stopStep (h : Running s f) (hc : f.cmd = .stop)
    (ht : Machine.stopStep f s = .next t) : Decides i s t := by
  unfold Machine.stopStep at ht
  split at ht <;> cases ht <;> rename_i hp
  · exact .moves (quiet_regRead _ s) h.todo
  · exact .moves (quiet_regWrite _ _ s) h.todo
  · exact .moves (quiet_regRead _ s) h.todo
  · exact .moves (quiet_regWrite _ _ s) h.todo
  · exact .moves (quiet_regWrite _ _ s) h.todo
  · exact .moves (quiet_flush s) h.todo
  · exact ⟨.inl rfl, .inr (.stop (h.at hc hp) (endsWith_of_settled (settled_stopDone f)))⟩

theorem decides_startStep (h : startStep f s = .next t) : Decides i s t := by
  unfold startStep at h
  split at h <;> cases h
  exact .perform (.refl s) rfl

theorem decides_initStep (h : initStep f s = .next t) : Decides i s t := by
  unfold initStep at h
  split at h <;> cases h
  exact .perform (.refl s) rfl

theorem decides_readHandleStep {field : HandleField} (h : readHandleStep field f s = .next t) :
    Decides i s t := by
  unfold readHandleStep at h
  split at h
  · split at h <;> cases h
    · exact .perform (quiet_readPermAddr s) rfl
    · exact .perform (.refl s) rfl
  · cases h

theorem decides_mtaVectorStep {addr : MacAddr} {filterType : Word}
    (h : mtaVectorStep addr filterType f s = .next t) : Decides i s t := by
  unfold mtaVectorStep at h
  split at h <;> cases h
  refine .perform (.refl s) ?_
  unfold diagnose
  split <;> rfl

theorem hashSteps_countP (list : List MacAddr) (filterType : Word) :
    (hashSteps list filterType).countP Prim.setsFsm = 0 := by
  refine List.countP_eq_zero.2 fun p hp => ?_
  obtain ⟨a, -, hp⟩ := List.mem_flatMap.1 hp
  obtain hp | hp := List.mem_append.1 hp
  · obtain ⟨-, -, hfsm⟩ := steady_diagnose (c := .updateMc list) (fun _ => rfl) filterType p hp
    simp [hfsm]
  · rw [List.mem_singleton.1 hp]; simp [Prim.setsFsm]

theorem Running.decides_updateMcStep (h : Running s f) {list : List MacAddr} (hc : f.cmd = .updateMc list)
    (ht : Machine.updateMcStep list f s = .next t) : Decides i s t := by
  unfold Machine.updateMcStep at ht
  split at ht
  · cases ht; exact .plan (.refl s) (hashSteps_countP _ _)
  · exact decides_operation h.todo (by simp [hc]) (decides_decodeUninspected _) ht

theorem Running.decides_checkLinkStep (h : Running s f) (ht : Machine.checkLinkStep f s = .next t) :
    Decides i s t := by
  unfold Machine.checkLinkStep at ht
  split at ht <;> cases ht
  · exact .moves (quiet_regRead _ s) h.todo
  · split
    · exact .plan (.refl s) rfl
    · split
      · exact .plan (.refl s) rfl
      · exact .moves (.refl s) h.todo
  · exact .moves (quiet_regRead _ s) h.todo
  · refine .plan (.refl s) ?_
    split
    · rfl
    · unfold linkOk decodeSpeed
      split_ifs <;> rfl

theorem Running.decides_checkForRstStep (h : Running s f) (ht : Machine.checkForRstStep f s = .next t) :
    Decides i s t := by
  unfold Machine.checkForRstStep at ht
  split at ht <;> cases ht
  · exact .moves (quiet_regRead _ s) h.todo
  · exact .perform (.refl s) rfl

/-! ## The message rows (R102, R124) -/

theorem decides_requestStep (hn : ∀ f, s.seq = .busy f → f.todo = []) {r : Instr}
    (h : requestStep r s = .next t) : Decides i s t := by
  have hq := quiet_requestStep h
  unfold requestStep at h
  split at h
  · cases h; exact .refuse hn
  · split at h <;> cases h
    · rename_i f _ hat
      exact .of_quiet hq (.inl (by rw [stageRequest_settled r hat.1]; rfl))
    · exact .refuse hn

theorem Running.decides_interpretReply (h : Running s f) (hp : f.point = .decode) {ws : List Word}
    (ht : Machine.interpretReply f ws s = .next t) : Decides i s t := by
  unfold Machine.interpretReply at ht
  split at ht <;> cases ht
  · rename_i hc; exact h.decides_decodeReset hc hp ws
  · exact decides_decodeSetMac _ _
  · exact decides_decodeUninspected _
  · exact decides_decodeUninspected _
  · exact decides_decodeSetMacvlan _
  · exact decides_decodeGetReta _
  · exact decides_decodeGetRssKey _
  · exact decides_decodeNegotiate _

theorem decides_replyStep (hs : Inv s) (hn : ∀ f, s.seq = .busy f → f.todo = []) {r : Instr}
    (h : replyStep r s = .next t) : Decides i s t := by
  unfold replyStep at h
  split at h
  · cases h; exact .refuse hn
  · rename_i f hf
    split at h
    · rename_i hat
      exact Running.decides_interpretReply ⟨hs, hf, hat.1⟩ hat.2 h
    · cases h; exact .refuse hn

/-! ## Admission (R212) -/

theorem Decides.accept (hg : g.todo = []) : Decides i s (accept g s) :=
  .rests (quiet_accept g s) (settled_none rfl hg)

theorem Decides.acceptIf (hn : ∀ f, s.seq = .busy f → f.todo = []) (c : Prop) [Decidable c]
    (h : c → Decides i s t) : Decides i s (if c then t else Machine.refuse s) := by
  split
  · exact h ‹c›
  · exact .refuse hn

theorem Decides.admitReady (hn : ∀ f, s.seq = .busy f → f.todo = []) (hg : g.todo = []) :
    Decides i s (admitReady g s) := .acceptIf hn _ fun _ => .accept hg

theorem Decides.admitQuery (hn : ∀ f, s.seq = .busy f → f.todo = []) (hg : g.todo = []) :
    Decides i s (admitQuery g s) := by
  unfold Machine.admitQuery
  split
  · exact .admitReady hn hg
  · exact .rests (quiet_finish _ s) (settled_idle rfl)

/-- RESET is accepted in `Stopped` with the stopped flag set, and goes over to `Resetting` (R211). -/
theorem decides_acceptReset (hs : s.seq = .idle) (hfsm : s.h.fsm = .stopped ∧ s.h.adapterStopped = true) :
    Decides .reset s (Machine.accept resetFrame s) :=
  .of_quiet (quiet_accept _ s) (.inr (.reset rfl hs hfsm.1 hfsm.2
    (congrArg State.h settled_accepted_reset)))

/-! ## The step -/

/-- Every command decides what its admission or its own step decides. -/
theorem decides_command {offer : State → State} {body : Frame → State → Outcome} (hs : Inv s)
    (hn : ∀ f, s.seq = .busy f → f.todo = []) (h : command i offer body s = .next t)
    (ho : s.seq = .idle → Decides i s (offer s))
    (hb : ∀ f, Running s f → f.cmd = i → body f s = .next t → Decides i s t) : Decides i s t := by
  obtain ⟨hi, ho'⟩ | ⟨f, hf, _, ht, _⟩ | ⟨f, hf, hc, ht, hn'⟩ | ⟨f, _, _, hr⟩ := command_cases h
  · cases ho'; exact ho hi
  · exact absurd (hn f hf) ht
  · exact hb f ⟨hs, hf, ht⟩ hc hn'.symm
  · cases hr; exact .refuse hn

/-- The execution of an instruction with nothing pending. -/
theorem decides_exec (hs : Inv s) (hn : ∀ f, s.seq = .busy f → f.todo = []) (h : exec i s = .next t) :
    Decides i s t := by
  cases i with
  | resetReq | setMacReq | setVlanReq | setMulticastReq | setMacvlanReq | apiNegotiateReq | getRetaReq
  | getRssKeyReq => exact decides_requestStep hn h
  | resetAck | setMacAck | setMacNack | apiNegotiateAck | apiNegotiateNack | setMacvlanAck
  | setMacvlanNack | getRetaSuccess | getRetaFailure | getRssKeySuccess | getRssKeyFailure | setVlanAck
  | setVlanNack | setMulticastAck | setMulticastNack => exact decides_replyStep hs hn h
  | stop =>
    exact decides_command hs hn h (fun _ => .accept rfl) fun _ hr hc => hr.decides_stopStep hc
  | reset =>
    exact decides_command hs hn (show execReset s = _ from h)
      (fun hi => .acceptIf hn _ (decides_acceptReset hi)) fun _ hr hc => hr.decides_resetStep hc
  | start => exact decides_command hs hn h (fun _ => .accept rfl) fun _ _ _ => decides_startStep
  | init => exact decides_command hs hn h (fun _ => .accept rfl) fun _ _ _ => decides_initStep
  | mtaVector =>
    exact decides_command hs hn h (fun _ => .accept rfl) fun _ _ _ => decides_mtaVectorStep
  | readHandle =>
    exact decides_command hs hn h (fun _ => .accept rfl) fun _ _ _ => decides_readHandleStep
  | checkLink =>
    exact decides_command hs hn h (fun _ => .accept rfl) fun _ hr _ => hr.decides_checkLinkStep
  | setMac addr =>
    exact decides_command hs hn h (fun _ => .admitReady hn rfl) fun _ hr hc =>
      decides_operation hr.todo (by simp [hc]) (decides_decodeSetMac _ _)
  | setVlan =>
    exact decides_command hs hn h (fun _ => .admitReady hn rfl) fun _ hr hc =>
      decides_operation hr.todo (by simp [hc]) (decides_decodeUninspected _)
  | updateMc list =>
    exact decides_command hs hn h (fun _ => .admitReady hn rfl) fun _ hr hc => hr.decides_updateMcStep hc
  | setMacvlan index addr =>
    exact decides_command hs hn (show execSetMacvlan index addr s = _ from h)
      (fun _ => .acceptIf hn _ fun _ => .admitReady hn rfl) fun _ hr hc =>
      decides_operation hr.todo (by simp [hc]) (decides_decodeSetMacvlan _)
  | getReta =>
    exact decides_command hs hn h (fun _ => .admitQuery hn rfl) fun _ hr hc =>
      decides_operation hr.todo (by simp [hc]) (decides_decodeGetReta _)
  | getRssKey =>
    exact decides_command hs hn h (fun _ => .admitQuery hn rfl) fun _ hr hc =>
      decides_operation hr.todo (by simp [hc]) (decides_decodeGetRssKey _)
  | negotiateApi =>
    exact decides_command hs hn h (fun _ => .admitReady hn rfl) fun _ hr hc =>
      decides_operation hr.todo (by simp [hc]) (decides_decodeNegotiate _)
  | writePosted msg len mailboxId =>
    exact decides_command hs hn (show execWritePosted msg len mailboxId s = _ from h)
      (fun _ => .acceptIf hn _ fun _ => .accept rfl) fun _ hr hc =>
      decides_transportStep hr.todo (by simp [hc])
  | readPosted len mailboxId =>
    exact decides_command hs hn (show execReadPosted len mailboxId s = _ from h)
      (fun _ => .acceptIf hn _ fun _ => .accept rfl) fun _ hr hc =>
      decides_transportStep hr.todo (by simp [hc])
  | exchange reqLen rspLen =>
    exact decides_command hs hn (show execExchange reqLen rspLen s = _ from h)
      (fun _ => .acceptIf hn _ fun _ => .accept rfl) fun _ hr hc =>
      decides_transportStep hr.todo (by simp [hc])
  | checkForRst mailboxId =>
    exact decides_command hs hn (show execCheckForRst mailboxId s = _ from h)
      (fun _ => .acceptIf hn _ fun _ => .accept rfl) fun _ hr _ => hr.decides_checkForRstStep

/-- A step executes an instruction, the block's or an issued one, or is a quiet change that leaves the
sequencer alone (R6). -/
theorem step_cases (h : step s = .next t) :
    (∃ i, exec i (nextMove s).2 = .next t ∧ ((nextMove s).1 = .vf ∧ currentInstr (nextMove s).2 = some i ∨
      (nextMove s).1 = .issue i ∧ (nextMove s).2.seq = .idle)) ∨
    Quiet (nextMove s).2 t ∧ t.seq = (nextMove s).2.seq := by
  simp only [step] at h
  generalize (nextMove s).2 = u at h ⊢
  split at h
  · rename_i hm
    split at h
    · rename_i i hi
      exact .inl ⟨i, h, .inl ⟨hm, hi⟩⟩
    · cases h; exact .inr ⟨.refl _, rfl⟩
  · rename_i i hm
    split at h
    · rename_i hadmit
      simp only [issueAdmitted, Bool.and_eq_true, decide_eq_true_eq] at hadmit
      exact .inl ⟨i, h, .inr ⟨hm, hadmit.2⟩⟩
    · cases h; exact .inr ⟨quiet_refuse u, rfl⟩
  · cases h; exact .inr ⟨quiet_hostReceive u, rfl⟩
  · cases h; exact .inr ⟨quiet_pfMove _ u, (pfMove_sameBlock _ u).seq⟩
  · cases h; exact .inr ⟨quiet_devMove _ u, (devMove_sameBlock _ u).seq⟩

/-- Taking a move from the schedule changes the schedule only. -/
theorem nextMove_eq (s : State) : (nextMove s).2 = { s with sched := (nextMove s).2.sched } := by
  unfold nextMove; split <;> rfl

/-- What is decided does not depend on the schedule. -/
theorem Transition.of_sched {moves : List Move} (h : Transition i { s with sched := moves } t) :
    Transition i s t := by
  cases h with
  | stop hat hend => exact .stop hat hend
  | reset hi hs hfsm hflag hh => exact .reset hi hs hfsm hflag hh
  | indicator hat hfsm he hend => exact .indicator hat hfsm he hend
  | await hat hfsm hh harm => exact .await hat hfsm hh harm
  | fails hs hc hfsm hend harm he => exact .fails hs hc hfsm hend harm he
  | ready hat hfsm hend => exact .ready hat hfsm hend

/-- A step with nothing pending decides nothing about the control state, or a row of the table; the row of
RESET's acceptance is an issue of the Host (R83, R211). -/
theorem decides_step (hs : Inv s) (hn : ∀ f, s.seq = .busy f → f.todo = []) (h : step s = .next t) :
    ∃ i, Decides i s t ∧ (i = .reset → s.seq = .idle → (nextMove s).1 = .issue .reset) := by
  have hq := quiet_nextMove s
  have hseq := nextMove_seq s
  have hn' : ∀ f, (nextMove s).2.seq = .busy f → f.todo = [] := by rwa [hseq]
  obtain ⟨i, hexec, hmove⟩ | ⟨hquiet, ht⟩ := step_cases h
  · have hd := decides_exec (hs.of_calm (calm_nextMove s) hseq) hn' hexec
    refine ⟨i, ⟨by rw [← hq.fsm]; exact hd.written, hd.decided.imp (·.trans hq.fsm) fun htr => ?_⟩, ?_⟩
    · rw [nextMove_eq] at htr
      exact htr.of_sched
    · rintro rfl hidle
      obtain ⟨-, hi⟩ | ⟨hm, -⟩ := hmove
      · simp [currentInstr, hseq, hidle] at hi
      · exact hm
  · exact ⟨.stop, .aside hn (hq.trans hquiet) (ht.trans hseq), by rintro ⟨⟩⟩

/-- Only commands have points (R35). -/
theorem group_of_pointOf {c : Instr} {p : Point} (h : pointOf c p = true) : c.group = .command := by
  cases c with
  | resetReq | setMacReq | setVlanReq | setMulticastReq | setMacvlanReq | apiNegotiateReq | getRetaReq
  | getRssKeyReq | resetAck | setMacAck | setMacNack | apiNegotiateAck | apiNegotiateNack | setMacvlanAck
  | setMacvlanNack | getRetaSuccess | getRetaFailure | getRssKeySuccess | getRssKeyFailure | setVlanAck
  | setVlanNack | setMulticastAck | setMulticastNack => cases h
  | _ => rfl

/-- A step with an update pending leads to the same control state, and a write of the control state gives
it (assumption 6). -/
theorem step_pending_fsm (hs : PendingOk s) (hf : s.seq = .busy f) (hne : f.todo ≠ [])
    (h : step s = .next t) : (settled t).h.fsm = (settled s).h.fsm ∧
      (t.h.fsm = s.h.fsm ∨ t.h.fsm = (settled t).h.fsm) := by
  have hseq := nextMove_seq s
  have hu := (quiet_nextMove s).sameControl hseq
  have hfu : (nextMove s).2.seq = .busy f := hseq.trans hf
  obtain ⟨i, hexec, ⟨-, hi⟩ | ⟨-, hidle⟩⟩ | ⟨hquiet, ht⟩ := step_cases h
  · rw [currentInstr_pending hfu hne] at hi
    cases hi
    rw [exec_pending hfu hne (group_of_pointOf (hs f hf).1)] at hexec
    cases hexec
    have hw := runNext_written (s := (nextMove s).2) (by unfold PendingOk; rwa [hseq])
    rw [settled_runNext, ← hu.fsm, ← hu.settled.fsm]
    exact ⟨rfl, hw⟩
  · rw [hfu] at hidle; cases hidle
  · have hst := ((quiet_nextMove s).trans hquiet).sameControl (ht.trans hseq)
    exact ⟨hst.settled.fsm, .inl hst.fsm⟩

end Decides

/-- Either an update is pending or none is. -/
theorem pending_or_not (s : State) :
    (∃ f, s.seq = .busy f ∧ f.todo ≠ []) ∨ ∀ f, s.seq = .busy f → f.todo = [] := by
  by_cases h : ∃ f, s.seq = .busy f ∧ f.todo ≠ []
  · exact .inl h
  · push Not at h; exact .inr h

/-- Settles O55: with an update pending nothing is decided, and otherwise the step decides a row of the
table. -/
theorem controlStateTransitions : Obligations.ControlStateTransitions := by
  refine ⟨fun s t hs hstep hne => ?_, fun s t hs hstep hne => ?_⟩
  · obtain ⟨f, hf, htodo⟩ | hn := pending_or_not s
    · exact (step_pending_fsm hs.pending hf htodo hstep).2.resolve_left hne
    · obtain ⟨i, hd, -⟩ := decides_step hs hn hstep
      exact hd.written.resolve_left hne
  · obtain ⟨f, hf, htodo⟩ | hn := pending_or_not s
    · exact absurd (step_pending_fsm hs.pending hf htodo hstep).1 hne
    · have hsettled := settled_of_todo hn
      rw [hsettled] at hne
      obtain ⟨i, hd, hmove⟩ := decides_step hs hn hstep
      refine ⟨hsettled, ?_⟩
      cases hd.decided.resolve_left hne with
      | stop hat hend => exact .inl ⟨hend.handle, hend.result, hend.idle, _, hat⟩
      | reset hi hidle hfsm hflag hh => exact .inr (.inl ⟨hfsm, hflag, hidle, hmove hi hidle, hh⟩)
      | indicator hat hfsm he hend =>
        refine .inr (.inr (.inl ⟨⟨_, hat⟩, hfsm, hend.handle, hend.idle, ?_⟩))
        rw [hend.result]
        exact he.imp (by rintro rfl; rfl) (by rintro rfl; rfl)
      | await hat hfsm hh harm =>
        exact .inr (.inr (.inr (.inl ⟨⟨_, hat⟩, hfsm, hh, harm.1, harm.2⟩)))
      | fails hf hc hfsm hend harm he =>
        exact .inr (.inr (.inr (.inr (.inl ⟨⟨_, hf, hc⟩, hfsm, hend.handle, hend.idle, harm.1, harm.2,
          _, hend.result, he.imp_right fun ⟨hbad, hwait, hat⟩ => ⟨hbad, hwait, _, hat⟩⟩))))
      | ready hat hfsm hend =>
        exact .inr (.inr (.inr (.inr (.inr ⟨⟨_, hat⟩, hfsm, hend.handle, hend.result, hend.idle⟩))))

end Sys2Proof.Machine
end

section
/-!
STOP and RESET run to their ends while only the block moves (R213, R214): the device as its posted writes will
leave it, one access at a time, and the loops over the queues and over the samples of the reset indicator.
-/

namespace Sys2Proof.Machine

open Sys2Proof

/-! ## Draining does not look at the sequencer -/

theorem drawWords_withSeq (k : Nat) (q : Seq) (s : State) :
    drawWords k { s with seq := q } = ((drawWords k s).1, { (drawWords k s).2 with seq := q }) := by
  have hword (s : State) :
      drawWord { s with seq := q } = ((drawWord s).1, { (drawWord s).2 with seq := q }) := by
    unfold drawWord
    cases s.tape <;> rfl
  induction k generalizing s with
  | zero => rfl
  | succ k ih => simp only [drawWords, hword, ih]

theorem writeReg_withSeq (r : Reg) (v : Word) (q : Seq) (s : State) :
    writeReg r v { s with seq := q } = { writeReg r v s with seq := q } := by
  cases r with
  | ctrl =>
    simp only [writeReg]
    split
    · simp only [functionLevelReset, drawWords_withSeq, State.modDev]
    · rfl
  | _ => rfl

theorem applyWrite_withSeq (e : Nat × Word) (q : Seq) (s : State) :
    applyWrite e { s with seq := q } = { applyWrite e s with seq := q } := by
  simp only [applyWrite]
  split
  · rfl
  · cases regAt s.cfg e.1 with
    | none => rfl
    | some r => exact writeReg_withSeq r e.2 q s

theorem applyAll_withSeq (es : List (Nat × Word)) (q : Seq) (s : State) :
    applyAll es { s with seq := q } = { applyAll es s with seq := q } := by
  induction es generalizing s with
  | nil => rfl
  | cons e es ih => rw [applyAll, applyWrite_withSeq, ih]; rfl

theorem applyAll_append (es fs : List (Nat × Word)) (s : State) :
    applyAll (es ++ fs) s = applyAll fs (applyAll es s) := by
  induction es generalizing s with
  | nil => rfl
  | cons e es ih => exact ih (applyWrite e s)

/-! ## The device as its posted writes will leave it (R61, R64) -/

/-- The device once every posted write is applied. -/
def State.drained (s : State) : Device := (drainAll s).dev

theorem drained_nil {s : State} (h : s.wbuf = []) : s.drained = s.dev := by
  rw [State.drained, drainAll_nil h]

@[simp] theorem drained_withSeq (s : State) (q : Seq) : State.drained { s with seq := q } = s.drained :=
  (congrArg State.dev (applyAll_withSeq s.wbuf q { s with wbuf := [] }) :)

/-- A register write of the running command, which moves on to the frame `f`. -/
def wrote (r : Reg) (v : Word) (f : Frame) (s : State) : State := { regWrite r v s with seq := .busy f }

/-- A register read of the running command, which moves on to the frame `f`. -/
def sampled (r : Reg) (f : Frame) (s : State) : State := { (regRead r s).2 with seq := .busy f }

@[simp] theorem wrote_h (r : Reg) (v : Word) (f : Frame) (s : State) : (wrote r v f s).h = s.h :=
  regWrite_h r v s

@[simp] theorem wrote_dev (r : Reg) (v : Word) (f : Frame) (s : State) : (wrote r v f s).dev = s.dev :=
  regWrite_dev r v s

section Access

variable {s : State} {r : Reg} {f : Frame}

/-- A posted write is the last one applied (R62, R64). -/
theorem drained_wrote (hp : s.cfg.Ok) (hr : s.h.removed = false) (hd : s.dev.removed = false)
    (hreg : r ∈ allRegs s.cfg) (v : Word) : (wrote r v f s).drained = (writeReg r v (drainAll s)).dev := by
  have hlast : drainAll (regWrite r v s) = applyWrite (r.offset (drainAll s).cfg, v) (drainAll s) := by
    rw [regWrite_live hr, drainAll, applyAll_append, drainAll_cfg]
    rfl
  rw [wrote, drained_withSeq, State.drained, hlast,
    applyWrite_offset (by simpa using hp) (by simpa using hd) (by simpa using hreg)]

/-- A read after which the block knows of no removal was a read of a present device, and answered the
register's value (R61). -/
theorem sampled_of_live (h : (sampled r f s).h.removed = false) : s.h.removed = false ∧
    s.dev.removed = false ∧ (regRead r s).1 = (readReg r (drainAll s)).1 := by
  change (regRead r s).2.h.removed = false at h
  have hr : s.h.removed = false := by
    by_contra hgone
    rw [regRead_sticky (by simpa using hgone)] at h
    cases h
  have hd : s.dev.removed = false := by
    by_contra hgone
    rw [regRead_discovers hr (by simpa using hgone)] at h
    cases h
  refine ⟨hr, hd, ?_⟩
  rw [regRead_live hr]
  simp [sampleReg, hd]

/-- Such a read has applied the posted writes (R61). -/
theorem sampled_dev (h : (sampled r f s).h.removed = false) : (sampled r f s).dev = s.drained :=
  regRead_dev (sampled_of_live h).1

theorem drained_sampled (h : (sampled r f s).h.removed = false) : (sampled r f s).drained = s.drained := by
  obtain hw | hgone := regRead_drains r s
  · rw [drained_nil (by exact hw), sampled_dev h]
  · exact absurd (hgone.symm.trans h) (by simp)

end Access

/-! ## The block alone -/

/-- From `s` to `t` the block has made register accesses: the change is quiet, and it leaves the schedule, the
refusal mark and the presence of the device alone. -/
structure Accesses (s t : State) : Prop extends Quiet s t where
  sched : t.sched = s.sched
  mark : t.refusalMark = s.refusalMark
  device : t.dev.removed = s.dev.removed


theorem Accesses.trans {s t u : State} (h : Accesses s t) (h' : Accesses t u) : Accesses s u :=
  ⟨h.toQuiet.trans h'.toQuiet, h'.sched.trans h.sched, h'.mark.trans h.mark, h'.device.trans h.device⟩

theorem Accesses.setFrame {s t : State} (h : Accesses s t) (f : Frame) :
    Accesses s { t with seq := .busy f } := ⟨h.toQuiet.setFrame f, h.sched, h.mark, h.device⟩

theorem accesses_sampled (r : Reg) (f : Frame) (s : State) : Accesses s (sampled r f s) :=
  ⟨(quiet_regRead r s).setFrame f, by simp [sampled], by simp [sampled], by simp [sampled]⟩

theorem accesses_wrote (r : Reg) (v : Word) (f : Frame) (s : State) : Accesses s (wrote r v f s) :=
  ⟨(quiet_regWrite r v s).setFrame f, by simp [wrote], by simp [wrote], by simp [wrote]⟩

theorem accesses_accepted (s : State) (f : Frame) : Accesses s (accepted s f) :=
  ⟨quiet_accept f s, rfl, rfl, rfl⟩

/-- The machine comes from `s` to `t`. -/
def LeadsTo (s t : State) : Prop := ∃ k, Reaches k s t

theorem LeadsTo.refl (s : State) : LeadsTo s s := ⟨0, rfl⟩

theorem LeadsTo.trans {s t u : State} (h : LeadsTo s t) (h' : LeadsTo t u) : LeadsTo s u := by
  obtain ⟨j, hj⟩ := h
  obtain ⟨k, hk⟩ := h'
  exact ⟨j + k, reaches_trans hj hk⟩

/-- Away from its encoder and decoder the block's move is the running command's (R35). -/
theorem currentInstr_own {s : State} {f : Frame} {c : Instr} {p : Point} (h : At s f c p)
    (hp : p ≠ .encode ∧ p ≠ .decode) : currentInstr s = some c := by
  obtain ⟨hs, rfl, rfl, ht⟩ := h
  unfold currentInstr
  simp only [hs, ht, if_true]
  split
  · exact absurd ‹_› hp.1
  · exact absurd ‹_› hp.2
  · rfl

/-- One step of the running command, when nothing else moves. -/
theorem leadsTo_next {s t : State} {f : Frame} {c : Instr} (p : Point) (hsched : s.sched = [])
    (h : At s f c p) (ht : At s f c p → exec c s = .next t) (hp : p ≠ .encode ∧ p ≠ .decode := by decide) :
    LeadsTo s t :=
  ⟨1, reaches_succ ((step_unscheduled hsched (currentInstr_own h hp)).trans (ht h)) rfl⟩

/-- The pending updates of the running command, when nothing else moves. -/
theorem leadsTo_settled {s : State} {f : Frame} (hsched : s.sched = []) (hs : s.seq = .busy f)
    (hg : f.cmd.group = .command) : LeadsTo s (settled s) := ⟨_, reaches_settled hsched hs hg rfl⟩

/-! ## The queue enables (R46, R213) -/

/-- A queue pair with both enables cleared. -/
def cleared (w : Config.Window) (x : QueueRegs) : QueueRegs :=
  ⟨clearEnable w x.rxdctl, clearEnable w x.txdctl⟩

/-- The queue pairs with the enables of the first `k` cleared. -/
def clearedUpTo (w : Config.Window) (k : Nat) (qs : List QueueRegs) : List QueueRegs :=
  qs.mapIdx fun j x => if j < k then cleared w x else x

theorem clearedUpTo_zero (w : Config.Window) (qs : List QueueRegs) : clearedUpTo w 0 qs = qs :=
  List.ext_getElem (by simp [clearedUpTo]) fun j _ _ => by simp [clearedUpTo]

theorem clearedUpTo_all (w : Config.Window) (qs : List QueueRegs) :
    clearedUpTo w qs.length qs = qs.map (cleared w) := by
  refine List.ext_getElem (by simp [clearedUpTo]) fun j hj _ => ?_
  have hlt : j < qs.length := by simpa [clearedUpTo] using hj
  simp [clearedUpTo, hlt]

/-- The transmit, then the receive register of queue `k` written back with `ENABLE` cleared. -/
theorem clear_both (qs : List QueueRegs) (k : Nat) (w : Config.Window) :
    setRxdctl (setTxdctl qs k (clearEnable w (queueOf qs k).txdctl)) k
      (clearEnable w (queueOf (setTxdctl qs k (clearEnable w (queueOf qs k).txdctl)) k).rxdctl)
      = qs.modify k (cleared w) := by
  refine List.ext_getElem (by simp [setRxdctl, setTxdctl]) fun j hj _ => ?_
  have hlt : j < qs.length := by simpa [setRxdctl, setTxdctl] using hj
  by_cases hjk : k = j
  · subst hjk
    simp [setRxdctl, setTxdctl, queueOf, cleared, hlt]
  · simp [setRxdctl, setTxdctl, hjk]

theorem clearedUpTo_succ (w : Config.Window) (k : Nat) (qs : List QueueRegs) :
    (clearedUpTo w k qs).modify k (cleared w) = clearedUpTo w (k + 1) qs := by
  refine List.ext_getElem (by simp [clearedUpTo]) fun j _ _ => ?_
  simp only [clearedUpTo, List.getElem_modify, List.getElem_mapIdx]
  by_cases hjk : k = j
  · subst hjk; simp
  · have hiff : j < k + 1 ↔ j < k := by omega
    simp [hjk, hiff]

/-! ## STOP (R213) -/

section Stop

variable {s t : State} {f : Frame} {k : Nat}

/-- STOP stands before queue `k`, or before the mask when there is none: the queues before it will have their
enables cleared once the posted writes are applied, if the device is not found removed. -/
structure StopBefore (s : State) (k : Nat) (t : State) (f : Frame) : Prop where
  accesses : Accesses s t
  index : f.i = k
  stands : At t f .stop (stopNext k s)
  queues : t.h.removed = false → t.dev.removed = false →
    t.drained.queues = clearedUpTo s.cfg.window k s.dev.queues

/-- A register of a queue is read and written back with `ENABLE` cleared, in the frames `f` and `g`. -/
def writtenBack (r : Reg) (f g : Frame) (t : State) : State :=
  wrote r (clearEnable (sampled r f t).cfg.window (regRead r t).1) g (sampled r f t)

theorem accesses_writtenBack (r : Reg) (f g : Frame) (t : State) : Accesses t (writtenBack r f g t) :=
  (accesses_sampled r f t).trans (accesses_wrote r _ g _)

/-- If the device is not found removed, the register gets its value with `ENABLE` cleared. -/
theorem drained_writtenBack (hp : t.cfg.Ok) {r : Reg} (hreg : r ∈ allRegs t.cfg) {f g : Frame}
    (hr : (writtenBack r f g t).h.removed = false) : t.h.removed = false ∧ t.dev.removed = false ∧
      ∃ u : State, u.dev = t.drained ∧ (writtenBack r f g t).drained
        = (writeReg r (clearEnable t.cfg.window (readReg r (drainAll t)).1) u).dev := by
  have hacc := accesses_sampled r f t
  rw [writtenBack, wrote_h] at hr
  obtain ⟨hr₀, hd₀, hv⟩ := sampled_of_live hr
  refine ⟨hr₀, hd₀, drainAll (sampled r f t), drained_sampled hr, ?_⟩
  rw [writtenBack, drained_wrote (by rwa [hacc.cfg]) hr (hacc.device.trans hd₀) (by rwa [hacc.cfg]), hv,
    hacc.cfg]

theorem queues_tx (hp : t.cfg.Ok) {q : Nat} (hq : q < t.cfg.numQueues) {f g : Frame}
    (hr : (writtenBack (.txdctl q) f g t).h.removed = false) : t.h.removed = false ∧
      t.dev.removed = false ∧ (writtenBack (.txdctl q) f g t).drained.queues
        = setTxdctl t.drained.queues q (clearEnable t.cfg.window (queueOf t.drained.queues q).txdctl) := by
  obtain ⟨hr₀, hd₀, u, hu, hd⟩ := drained_writtenBack hp (txdctl_mem_allRegs hq) hr
  refine ⟨hr₀, hd₀, ?_⟩
  rw [hd]
  change setTxdctl u.dev.queues q _ = _
  rw [hu]
  rfl

theorem queues_rx (hp : t.cfg.Ok) {q : Nat} (hq : q < t.cfg.numQueues) {f g : Frame}
    (hr : (writtenBack (.rxdctl q) f g t).h.removed = false) : t.h.removed = false ∧
      t.dev.removed = false ∧ (writtenBack (.rxdctl q) f g t).drained.queues
        = setRxdctl t.drained.queues q (clearEnable t.cfg.window (queueOf t.drained.queues q).rxdctl) := by
  obtain ⟨hr₀, hd₀, u, hu, hd⟩ := drained_writtenBack hp (rxdctl_mem_allRegs hq) hr
  refine ⟨hr₀, hd₀, ?_⟩
  rw [hd]
  change setRxdctl u.dev.queues q _ = _
  rw [hu]
  rfl

theorem stopNext_congr (h : t.cfg = s.cfg) (k : Nat) : stopNext k t = stopNext k s := by
  rw [stopNext, h]; rfl

/-- The transmit register of the current queue is read and written back. -/
theorem leadsTo_tx (hsched : t.sched = []) (h : At t f .stop .txRead) :
    ∃ f' g, LeadsTo t (writtenBack (.txdctl f.i) f' g t) ∧
      At (writtenBack (.txdctl f.i) f' g t) g .stop .rxRead ∧ g.i = f.i := by
  obtain ⟨hs, hc, hp, ht⟩ := h
  refine ⟨{ f with v := (regRead (.txdctl f.i) t).1, point := .txWrite },
    { f with v := (regRead (.txdctl f.i) t).1, point := .rxRead }, ?_, ⟨rfl, hc, rfl, ht⟩, rfl⟩
  exact (leadsTo_next .txRead hsched ⟨hs, hc, hp, ht⟩ exec_txRead).trans
    (leadsTo_next .txWrite (by simpa using hsched) ⟨rfl, hc, rfl, ht⟩ exec_txWrite)

/-- The receive register of the current queue is read and written back, and the next queue's turn comes. -/
theorem leadsTo_rx (hsched : t.sched = []) (hcfg : t.cfg = s.cfg) (h : At t f .stop .rxRead) :
    ∃ f' g, LeadsTo t (writtenBack (.rxdctl f.i) f' g t) ∧
      At (writtenBack (.rxdctl f.i) f' g t) g .stop (stopNext (f.i + 1) s) ∧ g.i = f.i + 1 := by
  obtain ⟨hs, hc, hp, ht⟩ := h
  refine ⟨{ f with v := (regRead (.rxdctl f.i) t).1, point := .rxWrite },
    { f with v := (regRead (.rxdctl f.i) t).1, i := f.i + 1, point := stopNext (f.i + 1) s },
    ?_, ⟨rfl, hc, rfl, ht⟩, rfl⟩
  refine (leadsTo_next .rxRead hsched ⟨hs, hc, hp, ht⟩ exec_rxRead).trans
    (leadsTo_next .rxWrite (by simpa using hsched) ⟨rfl, hc, rfl, ht⟩ fun h => (exec_rxWrite h).trans ?_)
  rw [stopNext_congr (s := s) (by simpa using hcfg)]
  rfl

/-- The four steps of one queue (R213). -/
theorem stop_queue (hp : s.cfg.Ok) (hsched : s.sched = []) (hk : k < s.cfg.numQueues)
    (h : StopBefore s k t f) : ∃ u g, LeadsTo t u ∧ StopBefore s (k + 1) u g := by
  obtain ⟨hacc, rfl, hat, hqueues⟩ := h
  rw [stopNext, if_pos hk] at hat
  obtain ⟨f₁, g₁, htx, hat₁, hi₁⟩ := leadsTo_tx (hacc.sched.trans hsched) hat
  have hacc₁ := hacc.trans (accesses_writtenBack (.txdctl f.i) f₁ g₁ t)
  obtain ⟨f₂, g₂, hrx, hat₂, hi₂⟩ := leadsTo_rx (s := s) (hacc₁.sched.trans hsched) hacc₁.cfg hat₁
  rw [hi₁] at hrx hat₂ hi₂
  refine ⟨_, g₂, htx.trans hrx, hacc₁.trans (accesses_writtenBack _ _ _ _), hi₂, hat₂, fun hr _ => ?_⟩
  obtain ⟨hr₁, -, hqueues₂⟩ := queues_rx (by rwa [hacc₁.cfg]) (by rwa [hacc₁.cfg]) hr
  obtain ⟨hr₀, hd₀, hqueues₁⟩ := queues_tx (by rwa [hacc.cfg]) (by rwa [hacc.cfg]) hr₁
  rw [hqueues₂, hacc₁.cfg, hqueues₁, hacc.cfg, clear_both, hqueues hr₀ hd₀, clearedUpTo_succ]

/-- The queues one after the other. -/
theorem stop_queues (hp : s.cfg.Ok) (hsched : s.sched = []) {d : Nat} (hk : k + d = s.cfg.numQueues)
    (h : StopBefore s k t f) : ∃ u g, LeadsTo t u ∧ StopBefore s s.cfg.numQueues u g := by
  induction d generalizing k t f with
  | zero => obtain rfl : k = s.cfg.numQueues := hk; exact ⟨t, f, .refl t, h⟩
  | succ d ih =>
    obtain ⟨u, g, hu, hnext⟩ := stop_queue hp hsched (by omega) h
    obtain ⟨v, g', hv, hend⟩ := ih (by omega) hnext
    exact ⟨v, g', hu.trans hv, hend⟩

/-- The mask, the flush and the three last updates (R213). -/
theorem stop_ends (hp : s.cfg.Ok) (hlen : s.dev.queues.length = s.cfg.numQueues) (hsched : s.sched = [])
    (h : StopBefore s s.cfg.numQueues t f) : ∃ u v, LeadsTo t v ∧ Accesses s u ∧
      v = ended u { u.h with adapterStopped := true, fsm := .stopped } ⟨.ok, .none⟩ ∧
      (u.h.removed = false → u.dev.intMask = 0#32 ∧
        u.dev.queues = s.dev.queues.map (cleared s.cfg.window)) := by
  obtain ⟨hacc, -, hat, hqueues⟩ := h
  rw [stopNext, if_neg (Nat.lt_irrefl _)] at hat
  obtain ⟨hs, hc, hpt, ht⟩ := hat
  have hmask := leadsTo_next .maskWrite (hacc.sched.trans hsched) ⟨hs, hc, hpt, ht⟩ exec_maskWrite
  have hacc₁ := hacc.trans (accesses_wrote .intMask 0#32 { f with point := .stopFlush } t)
  have hflush := leadsTo_next .stopFlush (hacc₁.sched.trans hsched) ⟨rfl, hc, rfl, ht⟩ exec_stopFlush
  have hacc₂ := hacc₁.trans (accesses_sampled .status { f with point := .stopDone } _)
  have hdone := leadsTo_next .stopDone (hacc₂.sched.trans hsched) ⟨rfl, hc, rfl, ht⟩ exec_stopDone
  have hupdates := leadsTo_settled
    (s := perform [.stopped true, .fsm .stopped, returnOk (.value .none)] { f with point := .stopDone } _)
    (by rw [perform_sched]; exact hacc₂.sched.trans hsched) rfl (by rw [hc]; rfl)
  refine ⟨_, _, hmask.trans (hflush.trans (hdone.trans hupdates)), hacc₂, settled_stopDone _, fun hr => ?_⟩
  obtain ⟨hr₁, hd₁, -⟩ := sampled_of_live hr
  rw [wrote_h] at hr₁
  rw [wrote_dev] at hd₁
  rw [sampled_dev hr, drained_wrote (by rwa [hacc.cfg]) hr₁ hd₁ (by simp [allRegs])]
  refine ⟨rfl, (hqueues hr₁ hd₁).trans ?_⟩
  rw [← hlen, clearedUpTo_all]

end Stop

/-- Settles O58: acceptance, the loop over the queues, and the end. -/
theorem stopAlwaysSucceeds : Obligations.StopAlwaysSucceeds := by
  intro s hp hlen hs hsched hw
  have hacc := accesses_accepted s (Frame.start .stop (firstPoint .stop s) none 0)
  obtain ⟨t, f, hloop, hbefore⟩ := stop_queues (k := 0) hp hsched (Nat.zero_add _)
    ⟨hacc, rfl, ⟨rfl, rfl, (stopNext_zero s).symm, rfl⟩, fun _ _ => by
      rw [drained_nil (by exact hw), clearedUpTo_zero]; rfl⟩
  obtain ⟨u, v, hend, haccu, rfl, hdev⟩ := stop_ends hp hlen hsched hbefore
  obtain ⟨k, hk⟩ := hloop.trans hend
  refine ⟨_, _, k, exec_always_idle hs (.inl rfl), hk, rfl, rfl, rfl, rfl, ?_, haccu.mark, hdev⟩
  exact congrArg (fun h : Handle => { h with adapterStopped := true, fsm := .stopped }) haccu.h

/-! ## RESET against a silent PF (R214, R257) -/

section Reset

variable {s t : State} {f : Frame}

theorem functionLevelReset_rstip (s : State) : (functionLevelReset s).dev.rstip = true := by
  rw [functionLevelReset_eq]; rfl

/-- Once the write of `CTRL.RST` is applied the reset indicator is asserted (R82). -/
theorem drained_ctrlWrite (hp : s.cfg.Ok) (hr : s.h.removed = false) (hd : s.dev.removed = false) :
    (wrote .ctrl (bitMask s.cfg.window.ctrlRst) f s).drained.rstip = true := by
  have hbit := hasBit_bitMask (hp.window.bitsInside s.cfg.window.ctrlRst (by simp))
  rw [drained_wrote hp hr hd (by simp [allRegs]), writeReg, drainAll_cfg, if_pos hbit]
  exact functionLevelReset_rstip _

/-- RESET stands before a sample with `k` to go, and the indicator stays asserted unless the device is found
removed. -/
structure Sampling (s : State) (k : Nat) (t : State) (f : Frame) : Prop where
  accesses : Accesses s t
  stands : At t f .reset .rstSample
  count : f.n = some k
  asserted : t.h.removed = false → t.dev.removed = false ∧ t.drained.rstip = true

/-- RESET comes to its end in the indicator loop: it has timed out, or found the device removed. -/
def LoopFails (s t : State) : Prop :=
  ∃ (u : State) (e : ErrorKind), Accesses s u ∧
    (e = .resetTimeout ∨ e = .deviceRemoved ∧ u.h.removed = true) ∧
    LeadsTo t (ended u { u.h with macValid := false, fsm := .stopped } ⟨.error e, .none⟩)

theorem LoopFails.after {u : State} (h : LoopFails s u) (ht : LeadsTo t u) : LoopFails s t := by
  obtain ⟨v, e, hacc, he, hend⟩ := h
  exact ⟨v, e, hacc, he, ht.trans hend⟩

theorem loopFails_of_test {e : ErrorKind} (hsched : s.sched = []) (hacc : Accesses s t)
    (h : At t f .reset .rstTest) (htest : resetTests f t = resetFails f e t)
    (he : e = .resetTimeout ∨ e = .deviceRemoved ∧ t.h.removed = true) : LoopFails s t := by
  refine ⟨t, e, hacc, he, (leadsTo_next .rstTest (hacc.sched.trans hsched) h exec_rstTest).trans ?_⟩
  rw [htest, ← settled_resetFails f e t]
  exact leadsTo_settled (hacc.sched.trans hsched) (plan_seq _ _ _) (by rw [h.cmd]; rfl)

/-- The sample of a present device whose indicator is asserted (R71, R145). -/
theorem regRead_mbx_asserted (hp : t.cfg.Ok) (hr : t.h.removed = false) (hd : t.dev.removed = false)
    (hrst : t.drained.rstip = true) :
    (sampled .mbx f t).h.removed = false ∧ showsReset t.cfg.window (regRead .mbx t).1 = true := by
  rw [sampled, regRead_mbx hr hd]
  exact ⟨by simpa using hr, (showsReset_mbxWord hp.window _ _ _ _).trans hrst⟩

/-- One round of the loop: it fails, or one sample less is to go (R214). -/
theorem sampling_round {k : Nat} (hp : s.cfg.Ok) (hsched : s.sched = []) (h : Sampling s k t f) :
    LoopFails s t ∨ 1 < k ∧ ∃ u g, LeadsTo t u ∧ Sampling s (k - 1) u g := by
  obtain ⟨hacc, ⟨hs, hc, hpt, ht⟩, hn, hasserted⟩ := h
  have hsample := leadsTo_next .rstSample (hacc.sched.trans hsched) ⟨hs, hc, hpt, ht⟩ exec_rstSample
  have hacc₁ := hacc.trans (accesses_sampled .mbx { f with v := (regRead .mbx t).1, point := .rstTest } t)
  have hat : At (sampled .mbx { f with v := (regRead .mbx t).1, point := .rstTest } t) _ .reset .rstTest :=
    ⟨rfl, hc, rfl, ht⟩
  cases hr : t.h.removed with
  | true =>
    have htest := loopFails_of_test hsched hacc₁ hat (resetTests_gone (regRead_sticky hr))
      (.inr ⟨rfl, regRead_sticky hr⟩)
    exact .inl (htest.after hsample)
  | false =>
    obtain ⟨hd, hrst⟩ := hasserted hr
    obtain ⟨hr₁, hv⟩ := regRead_mbx_asserted (by rwa [hacc.cfg]) hr hd hrst
    rw [hacc.cfg, ← hacc₁.cfg] at hv
    rcases Nat.lt_or_ge 1 k with hk | hk
    · have htest := leadsTo_next .rstTest (hacc₁.sched.trans hsched) hat fun h =>
        (exec_rstTest h).trans (congrArg _ (resetTests_again hr₁ hv hn hk))
      have hdelay := htest.trans
        (leadsTo_next .rstDelay (hacc₁.sched.trans hsched) ⟨rfl, hc, rfl, ht⟩ exec_rstDelay)
      refine .inr ⟨hk, _, _, hsample.trans hdelay, hacc₁.setFrame _, ⟨rfl, hc, rfl, ht⟩, rfl,
        fun _ => ⟨(accesses_sampled .mbx _ t).device.trans hd, ?_⟩⟩
      rw [drained_withSeq]
      exact (congrArg Device.rstip ((drained_withSeq _ _).trans (drained_sampled hr₁))).trans hrst
    · have htest := loopFails_of_test hsched hacc₁ hat (resetTests_last hr₁ hv hn hk) (.inl rfl)
      exact .inl (htest.after hsample)

/-- The loop of RESET over the samples of the indicator (R214). -/
theorem sampling_fails {k : Nat} (hp : s.cfg.Ok) (hsched : s.sched = []) (h : Sampling s k t f) :
    LoopFails s t := by
  induction k using Nat.strong_induction_on generalizing t f with
  | _ k ih =>
    obtain hfails | ⟨hk, u, g, hu, hnext⟩ := sampling_round hp hsched h
    · exact hfails
    · exact (ih (k - 1) (by omega) hnext).after hu

/-- RESET posts the function-level reset and flushes it before its first sample (R74, R214). -/
theorem reset_samples (hp : s.cfg.Ok) (hsched : s.sched = []) (h : At s f .reset .ctrlWrite) :
    ∃ t g, LeadsTo s t ∧ Sampling s s.cfg.rstPollMax t g := by
  obtain ⟨hs, hc, hpt, ht⟩ := h
  have hwrite := leadsTo_next .ctrlWrite hsched ⟨hs, hc, hpt, ht⟩ exec_ctrlWrite
  have hacc₁ := accesses_wrote .ctrl (bitMask s.cfg.window.ctrlRst) { f with point := .ctrlFlush } s
  have hflush := leadsTo_next .ctrlFlush (hacc₁.sched.trans hsched) ⟨rfl, hc, rfl, ht⟩ exec_ctrlFlush
  have hacc₂ := hacc₁.trans (accesses_sampled .status { f with point := .settle } _)
  have hsettle := leadsTo_next .settle (hacc₂.sched.trans hsched) ⟨rfl, hc, rfl, ht⟩ exec_settle
  refine ⟨_, _, hwrite.trans (hflush.trans hsettle), hacc₂.setFrame _, ⟨rfl, hc, rfl, ht⟩,
    congrArg (fun p : Config.Params => some p.rstPollMax) hacc₂.cfg, fun hr => ?_⟩
  change (sampled .status { f with point := .settle } _).h.removed = false at hr
  obtain ⟨hr₁, hd₁, -⟩ := sampled_of_live hr
  rw [wrote_h] at hr₁
  rw [wrote_dev] at hd₁
  refine ⟨hacc₂.device.trans hd₁, ?_⟩
  rw [drained_withSeq, drained_sampled hr]
  exact drained_ctrlWrite hp hr₁ hd₁

end Reset

/-- Settles O59: acceptance, the transition to `Resetting`, the function-level reset and the loop. -/
theorem resetAgainstSilentPfFails : Obligations.ResetAgainstSilentPfFails := by
  intro s hp hs hsched _ hfsm hflag
  have haccept := exec_reset_idle hs
  rw [if_pos ⟨hfsm, hflag⟩] at haccept
  have hresetting := leadsTo_settled (s := accepted s resetFrame) hsched rfl rfl
  rw [settled_accepted_reset] at hresetting
  let u : State := accepted { s with h := { s.h with fsm := .resetting } } { resetFrame with todo := [] }
  have hat : At u { resetFrame with todo := [] } .reset .ctrlWrite := ⟨rfl, rfl, rfl, rfl⟩
  obtain ⟨t, f, hbegin, hsampling⟩ := reset_samples (s := u) hp hsched hat
  obtain ⟨v, e, hacc, he, hend⟩ := sampling_fails (s := u) hp hsched hsampling
  obtain ⟨k, hk⟩ := hresetting.trans (hbegin.trans hend)
  refine ⟨_, _, k, e, haccept, hk, rfl, rfl, he, ?_⟩
  refine (congrArg (fun h : Handle => { h with macValid := false, fsm := .stopped }) hacc.h).trans ?_
  rw [← hfsm]
  rfl

end Sys2Proof.Machine
end

section
/-!
CHECK_LINK one point at a time (43_link_status.md): its two reads, the reset and removal tests, the decoding of
a sample of `LINKS`, and the drawn speed.
-/

namespace Sys2Proof.Machine

open Sys2Proof

/-! ## The speed field (R241, R242) -/

/-- A mapped pattern writes its speed; the codes are pairwise distinct, so the order of the tests does not
matter (R241). -/
theorem decodeSpeed_mapped {w : Config.Window} {field : BitVec 2} {sp : Speed} (hw : w.speedCodes.Nodup)
    (hsp : field = w.linksSpeed10G ∧ sp = .speed10G ∨ field = w.linksSpeed1G ∧ sp = .speed1G ∨
      field = w.linksSpeed100M ∧ sp = .speed100M) :
    decodeSpeed w field = .linkSpeed sp := by
  obtain ⟨⟨h1G, h100M⟩, h1G100M⟩ : (w.linksSpeed10G ≠ w.linksSpeed1G ∧
      w.linksSpeed10G ≠ w.linksSpeed100M) ∧ w.linksSpeed1G ≠ w.linksSpeed100M := by
    simpa [Config.Window.speedCodes] using hw
  unfold decodeSpeed
  obtain ⟨rfl, rfl⟩ | ⟨rfl, rfl⟩ | ⟨rfl, rfl⟩ := hsp
  · rw [if_pos rfl]
  · rw [if_neg h1G.symm, if_pos rfl]
  · rw [if_neg h100M.symm, if_neg h1G100M.symm, if_pos rfl]

/-- The unmapped pattern draws its speed (R242). -/
theorem decodeSpeed_unmapped {w : Config.Window} {field : BitVec 2} (h : field ∉ w.speedCodes) :
    decodeSpeed w field = .speedAny := by
  obtain ⟨h10G, h1G, h100M⟩ : field ≠ w.linksSpeed10G ∧ field ≠ w.linksSpeed1G ∧
      field ≠ w.linksSpeed100M := by
    simpa [Config.Window.speedCodes] using h
  rw [decodeSpeed, if_neg h10G, if_neg h1G, if_neg h100M]

/-! ## The drawn speed (R242) -/

/-- A draw that gives the speed. -/
def speedWord : Speed → Word
  | .unknown => 0#32
  | .speed10G => 1#32
  | .speed1G => 2#32
  | .speed100M => 3#32

/-- A drawn speed changes the draws only. -/
theorem drawSpeed_draws (s : State) :
    ∃ sp tape drawn, drawSpeed s = (sp, { s with tape := tape, drawn := drawn }) :=
  ⟨(drawSpeed s).1, (drawWords 1 s).2.tape, (drawWords 1 s).2.drawn,
    Prod.ext rfl (drawWords_eq 1 s)⟩

/-- A drawn speed does not depend on the handle. -/
theorem drawSpeed_withHandle (h : Handle) (s : State) :
    drawSpeed { s with h := h } = ((drawSpeed s).1, { (drawSpeed s).2 with h := h }) := by
  unfold drawSpeed drawWord
  cases s.tape <;> rfl

/-- Every speed can be drawn. -/
theorem drawSpeed_tape {s : State} {sp : Speed} {rest : List Word} (h : s.tape = speedWord sp :: rest) :
    drawSpeed s = (sp, { s with tape := rest }) := by
  have hword : drawWord s = (speedWord sp, { s with tape := rest }) := by rw [drawWord, h]
  rw [drawSpeed, hword]
  cases sp <;> rfl

/-! ## The steps of CHECK_LINK (R240) -/

section CheckLink

variable {s : State} {f : Frame}

/-- At a point of CHECK_LINK its pseudocode runs there. -/
theorem exec_checkLink_at {p : Point} (h : At s f .checkLink p) :
    exec .checkLink s = checkLinkStep { f with point := p } s := by
  rw [h.frame_eq, exec, execCheckLink, command_at h]

/-- The error outputs: link down, speed unknown (R240, R259). -/
theorem settled_linkError (e : ErrorKind) (g : Frame) :
    settled (plan (linkError e) g s)
      = ended s { s.h with linkUp := false, linkSpeed := .unknown } ⟨.error e, .link false .unknown⟩ := by
  rw [linkError, settled_plan_linkUp, settled_plan_linkSpeed, settled_plan_ends]
  rfl

/-- The tests behind the sample of `MBX`: removal before the indicator (R240). -/
theorem exec_indicatorTest (h : At s f .checkLink .indicatorTest) : exec .checkLink s = .next
    (if s.h.removed then plan (linkError .deviceRemoved) { f with point := .indicatorTest } s
      else if showsReset s.cfg.window f.v then
        plan (linkError .resetInProgress) { f with point := .indicatorTest } s
      else s.goto f .linksRead) := exec_checkLink_at h

/-- The test behind the sample of `LINKS` (R240). -/
theorem exec_linksTest (h : At s f .checkLink .linksTest) : exec .checkLink s = .next
    (plan (if s.h.removed then linkError .deviceRemoved else linkOk s.cfg.window f.v)
      { f with point := .linksTest } s) := exec_checkLink_at h

theorem exec_indicatorTest_removed (h : At s f .checkLink .indicatorTest) (hr : s.h.removed = true) :
    exec .checkLink s = .next (plan (linkError .deviceRemoved) { f with point := .indicatorTest } s) := by
  rw [exec_indicatorTest h, if_pos hr]

theorem exec_indicatorTest_asserted (h : At s f .checkLink .indicatorTest) (hr : s.h.removed = false)
    (hv : showsReset s.cfg.window f.v = true) :
    exec .checkLink s = .next (plan (linkError .resetInProgress) { f with point := .indicatorTest } s) := by
  rw [exec_indicatorTest h, if_neg (by simp [hr]), if_pos hv]

theorem exec_indicatorTest_clear (h : At s f .checkLink .indicatorTest) (hr : s.h.removed = false)
    (hv : showsReset s.cfg.window f.v = false) :
    exec .checkLink s = .next { s with seq := .busy { f with point := .linksRead } } := by
  rw [exec_indicatorTest h, if_neg (by simp [hr]), if_neg (by simp [hv])]
  rfl

theorem exec_linksTest_removed (h : At s f .checkLink .linksTest) (hr : s.h.removed = true) :
    exec .checkLink s = .next (plan (linkError .deviceRemoved) { f with point := .linksTest } s) := by
  rw [exec_linksTest h, if_pos hr]

theorem exec_linksTest_live (h : At s f .checkLink .linksTest) (hr : s.h.removed = false) :
    exec .checkLink s = .next (plan (linkOk s.cfg.window f.v) { f with point := .linksTest } s) := by
  rw [exec_linksTest h, if_neg (by simp [hr])]

/-- A sample with a mapped speed: the up bit and the speed are written and returned. -/
theorem settled_linkOk_mapped {w : Config.Window} {l : Word} {sp : Speed} (g : Frame)
    (hsp : decodeSpeed w (speedField w l) = .linkSpeed sp) :
    settled (plan (linkOk w l) g s)
      = ended s { s.h with linkUp := showsLink w l, linkSpeed := sp } ⟨.ok, .link (showsLink w l) sp⟩ := by
  rw [linkOk, hsp, settled_plan_linkUp, settled_plan_linkSpeed, settled_plan_returnOk]
  rfl

/-- A sample with the unmapped pattern: the same, with a drawn speed (R242). -/
theorem settled_linkOk_drawn {w : Config.Window} {l : Word} {sp : Speed} {tape : List Word} {drawn : Nat}
    (g : Frame) (hsp : decodeSpeed w (speedField w l) = .speedAny)
    (hdraw : drawSpeed s = (sp, { s with tape := tape, drawn := drawn })) :
    settled (plan (linkOk w l) g s)
      = ended { s with tape := tape, drawn := drawn }
          { s.h with linkUp := showsLink w l, linkSpeed := sp } ⟨.ok, .link (showsLink w l) sp⟩ := by
  rw [linkOk, hsp, settled_plan_linkUp, settled_plan_speedAny, settled_plan_returnOk, drawSpeed_withHandle,
    hdraw]
  rfl

end CheckLink

/-- Settles O26: the two reads, and the outcomes of the two tests. -/
theorem checkLinkReportsErrors : Obligations.CheckLinkReportsErrors :=
  fun _ _ => ⟨exec_checkLink_at, exec_checkLink_at,
    fun h hr => ⟨_, exec_indicatorTest_removed h hr, settled_linkError _ _⟩,
    fun h hr hv => ⟨_, exec_indicatorTest_asserted h hr hv, settled_linkError _ _⟩,
    fun h hr => ⟨_, exec_linksTest_removed h hr, settled_linkError _ _⟩,
    exec_indicatorTest_clear⟩

/-- Settles O27: the mapped patterns by the distinctness of their codes, the unmapped one by its draw. -/
theorem checkLinkDecodesSample : Obligations.CheckLinkDecodesSample := by
  refine ⟨fun s f h hr hp => ⟨fun sp hsp => ?_, fun hfield => ?_⟩,
    fun sp => ⟨speedWord sp, fun s f rest h hr hfield htape => ?_⟩⟩
  · exact ⟨_, exec_linksTest_live h hr,
      settled_linkOk_mapped _ (decodeSpeed_mapped hp.window.speedCodesNodup hsp)⟩
  · obtain ⟨sp, tape, drawn, hdraw⟩ := drawSpeed_draws s
    exact ⟨sp, tape, drawn, _, exec_linksTest_live h hr,
      settled_linkOk_drawn _ (decodeSpeed_unmapped hfield) hdraw⟩
  · exact ⟨_, exec_linksTest_live h hr,
      settled_linkOk_drawn _ (decodeSpeed_unmapped hfield) (drawSpeed_tape htape)⟩

end Sys2Proof.Machine
end

section
/-!
The exits of a poll iteration (R261): the tests of a sample in their order, and what a raise of a poll ends with.
-/

namespace Sys2Proof.Machine

open Sys2Proof

/-! ## The tests of a sample, in their order (R141, R142, R261) -/

section PollTests

variable {s : State} {f : Frame} {use : Use} {awaited : Bool} {onSuccess : State → State} {again : Point}

theorem pollTests_gone (hr : s.h.removed = true) :
    pollTests f use awaited onSuccess again s = transportRaise f use .deviceRemoved s := if_pos hr

theorem pollTests_reset (hr : s.h.removed = false) (hv : showsReset s.cfg.window f.v = true) :
    pollTests f use awaited onSuccess again s = transportRaise f use .resetInProgress s := by
  rw [pollTests, if_neg (by simp [hr]), if_pos hv]

/-- Neither a removal nor a reset: the awaited bit decides, then the count. -/
theorem pollTests_clear (hr : s.h.removed = false) (hv : showsReset s.cfg.window f.v = false) :
    pollTests f use awaited onSuccess again s
      = if awaited then onSuccess s else countDown f use again s := by
  rw [pollTests, if_neg (by simp [hr]), if_neg (by simp [hv])]

theorem countDown_last (hn : f.n = some 1) :
    countDown f use again s = transportRaise f use .transportTimeout s := by
  simp [countDown, hn]

theorem countDown_again {k : Nat} (hn : f.n = some (k + 2)) :
    countDown f use again s = s.setFrame { f with n := some (k + 1), point := again } := by
  simp [countDown, hn]

theorem countDown_endless (hn : f.n = none) : countDown f use again s = s.goto f again := by
  simp [countDown, hn]

end PollTests

/-! ## The exits (R172, R261) -/

/-- The step of `c` leads to the end of the command with the error `e`; of the handle only RESET's address and
control state are written, and the device is left alone (R141, R172, R214). -/
def FailsWith (s : State) (c : Instr) (e : ErrorKind) : Prop :=
  ∃ t, exec c s = .next t ∧ (settled t).seq = .idle ∧ (settled t).result = some ⟨.error e, .none⟩ ∧
    (settled t).dev = s.dev ∧ (settled t).wbuf = s.wbuf ∧ (settled t).refusalMark = s.refusalMark ∧
    (settled t).h = failedHandle c s.h

section Exits

variable {s : State} {f : Frame} {c : Instr} {use : Use} {awaited : Bool} {onSuccess : State → State}
  {again : Point}

theorem failsWith_of_raise {e : ErrorKind} (hc : f.cmd = c)
    (h : exec c s = .next (transportRaise f use e s)) : FailsWith s c e := by
  obtain ⟨hidle, hresult, hh, hdev, hwbuf, hmark⟩ := settled_transportRaise f use e s
  exact ⟨_, h, hidle, hresult, hdev, hwbuf, hmark, hc ▸ hh⟩

/-- A step that makes the tests of a sample leaves the poll by the first exit that applies (R261). -/
theorem poll_exits (h : exec c s = .next (pollTests f use awaited onSuccess again s)) (hc : f.cmd = c) :
    (s.h.removed = true → FailsWith s c .deviceRemoved) ∧
    (s.h.removed = false → showsReset s.cfg.window f.v = true → FailsWith s c .resetInProgress) ∧
    (s.h.removed = false → showsReset s.cfg.window f.v = false → awaited = true →
      exec c s = .next (onSuccess s)) ∧
    (s.h.removed = false → showsReset s.cfg.window f.v = false → ¬ awaited = true → f.n = some 1 →
      FailsWith s c .transportTimeout) ∧
    (∀ k, s.h.removed = false → showsReset s.cfg.window f.v = false → ¬ awaited = true →
      f.n = some (k + 2) → exec c s = .next (s.setFrame { f with n := some (k + 1), point := again })) ∧
    (s.h.removed = false → showsReset s.cfg.window f.v = false → ¬ awaited = true → f.n = none →
      exec c s = .next (s.goto f again)) := by
  refine ⟨fun hr => ?_, fun hr hv => ?_, fun hr hv ha => ?_, fun hr hv ha hn => ?_,
    fun k hr hv ha hn => ?_, fun hr hv ha hn => ?_⟩
  · exact failsWith_of_raise hc (h.trans (congrArg _ (pollTests_gone hr)))
  · exact failsWith_of_raise hc (h.trans (congrArg _ (pollTests_reset hr hv)))
  all_goals rw [pollTests_clear hr hv] at h
  · rw [h, if_pos ha]
  all_goals rw [if_neg ha] at h
  · exact failsWith_of_raise hc (h.trans (congrArg _ (countDown_last hn)))
  · rw [h, countDown_again hn]
  · rw [h, countDown_endless hn]

end Exits

/-! ## The two poll points -/

section Points

variable {s : State} {f : Frame} {c : Instr} (hc : usesTransport c = true)
include hc

theorem exec_lockTest {use : Use} (h : At s f c (.lockTest use)) :
    exec c s = .next (pollTests { f with point := .lockTest use } use (showsLock s.cfg.window f.v)
      (afterLock { f with point := .lockTest use } use) (.lockDelay use) s) :=
  exec_onSide hc h (onSide_lockTest use)

theorem exec_pollTest (h : At s f c .pollTest) :
    exec c s = .next (pollTests { f with point := .pollTest } .read (showsReply s.cfg.window f.v)
      (·.goto { f with point := .pollTest } (.lockBudget .read)) .pollDelay s) :=
  exec_onRead hc h rfl

end Points

/-- Settles O40: each of the three test points makes the tests of one sample. -/
theorem pollExitPriority : Obligations.PollExitPriority := by
  intro s f c p hc h hp
  obtain rfl | rfl | rfl := hp
  · exact poll_exits (exec_lockTest hc h) h.cmd
  · exact poll_exits (exec_lockTest hc h) h.cmd
  · exact poll_exits (exec_pollTest hc h) h.cmd

end Sys2Proof.Machine
end

section
/-!
No step stops (R264): at every point of its own a command's pseudocode has a step, so that the one fault,
`badPoint`, is not raised from a state with the invariant.
-/

namespace Sys2Proof.Machine

open Sys2Proof

/-- The outcome is a next state. -/
def Answers (o : Outcome) : Prop := ∃ t, o = .next t

theorem answers_next (t : State) : Answers (.next t) := ⟨t, rfl⟩

section Bodies

variable {s : State} {f : Frame}

/-! ## Where a running command stands -/

theorem Running.own_or_onSide (h : Running s f) :
    f.point ∈ ownPoints f.cmd ∨ ∃ use, onSide use f.point = true := by
  have hp := h.point
  rw [pointOf_eq] at hp
  simp only [Bool.or_eq_true, Bool.and_eq_true, decide_eq_true_eq] at hp
  obtain (hown | hpost) | hread := hp
  · exact .inl hown
  · exact .inr ⟨.post, hpost.2⟩
  · exact .inr ⟨.read, hread.2⟩

/-- A command that exchanges no message stands at a point of its own. -/
theorem Running.own (h : Running s f) (hc : usesTransport f.cmd = false) : f.point ∈ ownPoints f.cmd := by
  refine h.own_or_onSide.resolve_right fun ⟨use, hp⟩ => ?_
  have hruns : runsSide use f.cmd = true := pointOf_onSide hp f.cmd ▸ h.point
  simp [usesTransport_of_runsSide hruns] at hc

/-- The request a command builds is known where it builds it. -/
theorem Running.request (h : Running s f) (hp : f.point = .encode) : ∃ r, f.req = some r := by
  obtain ⟨-, -, -, hnone⟩ := (f.ok_iff s.cfg).1 (h.control.frame f h.seq)
  cases hr : f.req with
  | some r => exact ⟨r, rfl⟩
  | none => exact absurd (hp ▸ by decide : f.point ∈ buildPoints) (hnone hr)

/-! ## The transport -/

theorem answers_onSide {use : Use} {p : Point} (hp : onSide use p = true) :
    Answers (transportStep { f with point := p } s) := by
  cases p with
  | postStart | postReq | postFlush | postDone | copyOut | readStart | readDone | pollBudget | pollRead
  | pollTest | pollDelay | copyIn | copyStore | copyInTest | ackWrite | ackFlush | lockBudget | lockWrite
  | lockRead | lockTest | lockDelay => exact answers_next _
  | _ => cases use <;> cases hp

/-- The transport has a step at the encode point and at every point of a contract. -/
theorem Running.answers_transportStep (h : Running s f)
    (hp : f.point = .encode ∨ ∃ use, onSide use f.point = true) : Answers (Machine.transportStep f s) := by
  obtain henc | ⟨use, hside⟩ := hp
  · obtain ⟨r, hr⟩ := h.request henc
    simp only [Machine.transportStep, henc, hr]
    exact answers_next _
  · exact answers_onSide (f := f) hside

/-- An operation interprets its reply or runs the transport (R146). -/
theorem Running.answers_operation (h : Running s f)
    (hown : f.point ∈ ownPoints f.cmd → f.point = .encode ∨ f.point = .decode)
    (interpret : Frame → List Word → State → State) : Answers (Machine.operation interpret f s) := by
  by_cases hdec : f.point = .decode
  · rw [operation_decode hdec]
    exact answers_next _
  · rw [operation_transport hdec]
    exact h.answers_transportStep (h.own_or_onSide.imp_left fun hq => (hown hq).resolve_right hdec)

/-! ## The other commands -/

theorem answers_stopStep
    (hp : f.point ∈ [Point.txRead, .txWrite, .rxRead, .rxWrite, .maskWrite, .stopFlush, .stopDone]) :
    Answers (stopStep f s) := by
  unfold stopStep
  split
  case h_8 => simp_all
  all_goals exact answers_next _

theorem Running.answers_resetStep (h : Running s f) (hc : f.cmd = .reset) : Answers (Machine.resetStep f s) := by
  unfold Machine.resetStep
  split
  case h_11 =>
    refine h.answers_transportStep (h.own_or_onSide.imp_left fun hown => ?_)
    have hpoint : f.point ∈ [Point.ctrlWrite, .ctrlFlush, .settle, .rstSample, .rstTest, .rstDelay, .arm,
      .await, .replySettle, .encode, .decode] := by rwa [hc] at hown
    simp_all
  all_goals exact answers_next _

theorem answers_readHandleStep (hp : f.point = .run) (field : HandleField) :
    Answers (readHandleStep field f s) := by
  simp only [readHandleStep, hp]
  split <;> exact answers_next _

theorem Running.answers_updateMcStep (h : Running s f) {list : List MacAddr} (hc : f.cmd = .updateMc list) :
    Answers (Machine.updateMcStep list f s) := by
  unfold Machine.updateMcStep
  split
  · exact answers_next _
  · rename_i hhash
    refine h.answers_operation (fun hown => ?_) _
    have hpoint : f.point ∈ [Point.hash, .encode, .decode] := by rwa [hc] at hown
    simpa using (List.mem_cons.1 hpoint).resolve_left hhash

theorem answers_checkLinkStep
    (hp : f.point ∈ [Point.indicatorRead, .indicatorTest, .linksRead, .linksTest]) :
    Answers (checkLinkStep f s) := by
  unfold checkLinkStep
  split
  case h_5 => simp_all
  all_goals exact answers_next _

theorem answers_checkForRstStep (hp : f.point ∈ [Point.indicatorRead, .indicatorTest]) :
    Answers (checkForRstStep f s) := by
  unfold checkForRstStep
  split
  case h_3 => simp_all
  all_goals exact answers_next _

/-! ## The message rows (R102, R124) -/

/-- A command that stands at a decode point has a decoder (R182). -/
theorem Running.answers_interpretReply (h : Running s f) (hp : f.point = .decode) (ws : List Word) :
    Answers (Machine.interpretReply f ws s) := by
  have hdecodes : isOperation f.cmd = true ∨ f.cmd = .reset := by
    have hpoint := h.point
    rw [hp, pointOf_decode] at hpoint
    simpa using hpoint
  cases hc : f.cmd with
  | reset | setMac | setVlan | updateMc | setMacvlan | getReta | getRssKey | negotiateApi =>
    rw [Machine.interpretReply, hc]
    exact answers_next _
  | _ => simp [hc, isOperation] at hdecodes

theorem answers_requestStep (r : Instr) (s : State) : Answers (requestStep r s) := by
  unfold requestStep
  split
  · exact answers_next _
  · split <;> exact answers_next _

theorem answers_replyStep (hs : Inv s) (r : Instr) : Answers (replyStep r s) := by
  unfold replyStep
  split
  · exact answers_next _
  · rename_i f hf
    split
    · rename_i hat
      exact Running.answers_interpretReply ⟨hs, hf, hat.1⟩ hat.2 _
    · exact answers_next _

/-! ## The step -/

/-- A command stops at its own steps only: its admission, a pending update and a refusal are next states (R35,
R83). -/
theorem answers_command {i : Instr} {offer : State → State} {body : Frame → State → Outcome} (hs : Inv s)
    (hb : ∀ f, Running s f → f.cmd = i → Answers (body f s)) : Answers (command i offer body s) := by
  obtain ⟨_, ho⟩ | ⟨f, _, _, _, hn⟩ | ⟨f, hf, hc, ht, hn⟩ | ⟨f, _, _, hn⟩ :=
    command_cases (rfl : command i offer body s = _)
  · exact ⟨_, ho⟩
  · exact ⟨_, hn⟩
  · rw [hn]; exact hb f ⟨hs, hf, ht⟩ hc
  · exact ⟨_, hn⟩

/-- An operation that builds its request, exchanges the messages and interprets the reply. -/
theorem answers_plainOperation {i : Instr} {offer : State → State}
    {interpret : Frame → List Word → State → State} (hs : Inv s) (hi : ownPoints i = [.encode, .decode]) :
    Answers (command i offer (Machine.operation interpret) s) :=
  answers_command hs fun f h hc => h.answers_operation (fun hown => by simpa [hc, hi] using hown) _

/-- A raw command of the transport has no point of its own. -/
theorem answers_rawTransport {i : Instr} {offer : State → State} (hs : Inv s) (hi : ownPoints i = []) :
    Answers (command i offer Machine.transportStep s) :=
  answers_command hs fun f h hc =>
    h.answers_transportStep (.inr (h.own_or_onSide.resolve_left (by simp [hc, hi])))

/-- A command that exchanges no message stands at one of its own points. -/
theorem answers_ownCommand {i : Instr} {offer : State → State} {body : Frame → State → Outcome}
    (hs : Inv s) (hi : usesTransport i = false)
    (hb : ∀ f, f.point ∈ ownPoints i → Answers (body f s)) : Answers (command i offer body s) :=
  answers_command hs fun f h hc => hb f (hc ▸ h.own (hc ▸ hi))

/-- A command of one point. -/
theorem answers_oneStep {i : Instr} {offer : State → State} {body : Frame → State → Outcome}
    (hs : Inv s) (hi : usesTransport i = false) (hrun : ownPoints i = [.run])
    (hb : ∀ f, f.point = .run → Answers (body f s)) : Answers (command i offer body s) :=
  answers_ownCommand hs hi fun f hp => hb f (by simpa [hrun] using hp)

/-- Executing any instruction leads to a next state. -/
theorem answers_exec (hs : Inv s) (i : Instr) : Answers (exec i s) := by
  cases i with
  | resetReq | setMacReq | setVlanReq | setMulticastReq | setMacvlanReq | apiNegotiateReq | getRetaReq
  | getRssKeyReq => exact answers_requestStep _ s
  | resetAck | setMacAck | setMacNack | apiNegotiateAck | apiNegotiateNack | setMacvlanAck
  | setMacvlanNack | getRetaSuccess | getRetaFailure | getRssKeySuccess | getRssKeyFailure | setVlanAck
  | setVlanNack | setMulticastAck | setMulticastNack => exact answers_replyStep hs _
  | setMac | setVlan | getReta | getRssKey | negotiateApi => exact answers_plainOperation hs rfl
  | setMacvlan index addr =>
    exact show Answers (execSetMacvlan index addr s) from answers_plainOperation hs rfl
  | updateMc => exact answers_command hs fun _ h hc => h.answers_updateMcStep hc
  | reset =>
    exact show Answers (execReset s) from answers_command hs fun _ h hc => h.answers_resetStep hc
  | writePosted msg len mailboxId =>
    exact show Answers (execWritePosted msg len mailboxId s) from answers_rawTransport hs rfl
  | readPosted len mailboxId =>
    exact show Answers (execReadPosted len mailboxId s) from answers_rawTransport hs rfl
  | exchange reqLen rspLen =>
    exact show Answers (execExchange reqLen rspLen s) from answers_rawTransport hs rfl
  | stop => exact answers_ownCommand hs rfl fun _ => answers_stopStep
  | checkLink => exact answers_ownCommand hs rfl fun _ => answers_checkLinkStep
  | checkForRst mailboxId =>
    exact show Answers (execCheckForRst mailboxId s) from
      answers_ownCommand hs rfl fun _ => answers_checkForRstStep
  | start => exact answers_oneStep hs rfl rfl fun f hp => by rw [startStep, hp]; exact answers_next _
  | init => exact answers_oneStep hs rfl rfl fun f hp => by rw [initStep, hp]; exact answers_next _
  | mtaVector => exact answers_oneStep hs rfl rfl fun f hp => by rw [mtaVectorStep, hp]; exact answers_next _
  | readHandle field => exact answers_oneStep hs rfl rfl fun f hp => answers_readHandleStep hp field

end Bodies

/-- Settles O53: a move of the block or an issue of the Host executes an instruction, which leads to a next
state, and every other move is one. -/
theorem stepNeverStops : Obligations.StepNeverStops := by
  intro s hs
  have hu : Inv (nextMove s).2 := hs.of_calm (calm_nextMove s) (nextMove_seq s)
  simp only [step]
  generalize (nextMove s).2 = u at hu ⊢
  split
  · split
    · exact answers_exec hu _
    · exact ⟨_, rfl⟩
  · split
    · exact answers_exec hu _
    · exact ⟨_, rfl⟩
  all_goals exact ⟨_, rfl⟩

end Sys2Proof.Machine
end

section
/-!
The matrix of statuses (R265), from the model to the matrix: where a step leads to the end of a command, what it hands
over is allowed.
-/

namespace Sys2Proof.Machine

open Sys2Proof

/-! ## What an end hands over (R262, R265) -/

/-- What the end of `c` may hand over: a status of its row other than NotSupported, which is decided at
acceptance, and with an error no outputs but CHECK_LINK's (R181, R240, R265). -/
structure MatrixEnd (c : Instr) (r : Result) : Prop where
  allowed : statusAllowed c r.status = true
  supported : r.status ≠ .error .notSupported
  output : ∀ e, r.status = .error e → r.output = if c = .checkLink then .link false .unknown else .none

theorem matrixEnd_ok (c : Instr) (o : Output) : MatrixEnd c ⟨.ok, o⟩ := ⟨rfl, by simp, by simp⟩

theorem matrixEnd_raise {c : Instr} {e : ErrorKind} (h : statusAllowed c (.error e) = true)
    (he : e ≠ .notSupported) (hc : c ≠ .checkLink) : MatrixEnd c ⟨.error e, .none⟩ :=
  ⟨h, by simpa using he, fun _ _ => (if_neg hc).symm⟩

/-- If the pending updates lead to the end of `c`, it is one of the matrix. -/
def EndsInMatrix (c : Instr) (t : State) : Prop :=
  (settled t).seq = .idle → ∃ r, (settled t).result = some r ∧ MatrixEnd c r

/-- An update that ends nothing leaves the ones behind it planned. -/
theorem runPrim_plan {p : Prim} (hp : p.isEnd = false) (ps : List Prim) (f : Frame) (s : State) :
    ∃ g u, runPrim p (plan ps f s) = plan ps g u := by
  obtain ⟨r, hr⟩ := runPrim_busy (plan_seq ps f s) hp
  exact ⟨{ f with req := r }, runPrim p (plan ps f s), by simp only [plan, State.setFrame, ← hr]⟩

/-- A plan that leads to the end of a command does so by a `return` or `raise` of its own (R262). -/
theorem settled_plan_end {ps : List Prim} {f : Frame} {s : State} (hi : (settled (plan ps f s)).seq = .idle) :
    ∃ status what h, Prim.ends status what ∈ ps ∧
      (settled (plan ps f s)).result = some ⟨status, what.output h⟩ := by
  induction ps generalizing f s with
  | nil => simp at hi
  | cons p ps ih =>
    cases hp : p.isEnd with
    | true =>
      cases p with
      | ends status what => exact ⟨status, what, s.h, List.mem_cons_self, by simp⟩
      | _ => cases hp
    | false =>
      obtain ⟨g, u, heq⟩ := runPrim_plan hp ps f s
      rw [settled_plan_cons, heq] at hi ⊢
      obtain ⟨status, what, h, hmem, hresult⟩ := ih hi
      exact ⟨status, what, h, List.mem_cons_of_mem _ hmem, hresult⟩

section Ends

variable {c : Instr} {s t u : State} {f g : Frame} {ps : List Prim}

theorem endsInMatrix_plan (h : ∀ status what, Prim.ends status what ∈ ps →
    ∀ hd, MatrixEnd c ⟨status, what.output hd⟩) : EndsInMatrix c (plan ps g u) := fun hi => by
  obtain ⟨status, what, hd, hmem, hresult⟩ := settled_plan_end hi
  exact ⟨_, hresult, h status what hmem hd⟩

/-- Updates that end nothing, then a `return` or `raise`. -/
theorem endsInMatrix_ends {status : Status} {what : Returned}
    (h : ∀ hd, MatrixEnd c ⟨status, what.output hd⟩)
    (hps : ∀ p ∈ ps, p.isEnd = false := by simp [Prim.isEnd]) :
    EndsInMatrix c (plan (ps ++ [.ends status what]) g u) := by
  refine endsInMatrix_plan fun st w hmem => ?_
  obtain hmem | hmem := List.mem_append.1 hmem
  · cases hps _ hmem
  · cases List.mem_singleton.1 hmem
    exact h

theorem endsInMatrix_returns {what : Returned} (hps : ∀ p ∈ ps, p.isEnd = false := by simp [Prim.isEnd]) :
    EndsInMatrix c (plan (ps ++ [returnOk what]) g u) :=
  endsInMatrix_ends (fun _ => matrixEnd_ok c _) hps

theorem endsInMatrix_raises {e : ErrorKind} (h : statusAllowed c (.error e) = true)
    (he : e ≠ .notSupported := by decide) (hc : c ≠ .checkLink := by rintro ⟨⟩)
    (hps : ∀ p ∈ ps, p.isEnd = false := by simp [Prim.isEnd]) :
    EndsInMatrix c (plan (ps ++ [raise e]) g u) :=
  endsInMatrix_ends (fun _ => matrixEnd_raise h he hc) hps

/-- Updates that end nothing. -/
theorem endsInMatrix_continues (hps : ∀ p ∈ ps, p.isEnd = false := by simp [Prim.isEnd]) :
    EndsInMatrix c (plan ps g u) :=
  endsInMatrix_plan fun _ _ hmem => by cases hps _ hmem

theorem endsInMatrix_perform (h : EndsInMatrix c (plan ps g u)) : EndsInMatrix c (perform ps g u) := by
  unfold EndsInMatrix
  rwa [settled_perform]

/-- A command that goes on has not ended. -/
theorem endsInMatrix_busy (ht : t.seq = .busy g) (hg : g.todo = []) : EndsInMatrix c t := fun hi => by
  rw [settled_none ht hg, ht] at hi
  cases hi

theorem endsInMatrix_moves (hg : g.todo = []) : EndsInMatrix c (u.setFrame g) := endsInMatrix_busy rfl hg

/-! ## The transport (R141 to R144) -/

theorem endsInMatrix_stageRequest (r : Instr) : EndsInMatrix c (stageRequest r f s) := by
  refine endsInMatrix_perform (endsInMatrix_continues fun p hp => ?_)
  obtain ⟨i, w, rfl⟩ := msgWrites_isMsg hp
  rfl

theorem endsInMatrix_raise (hc : usesTransport f.cmd = true) (use : Use) {e : ErrorKind}
    (he : e ∈ transportErrors) : EndsInMatrix f.cmd (transportRaise f use e s) := fun _ => by
  obtain ⟨-, hresult, -⟩ := settled_transportRaise f use e s
  refine ⟨_, hresult, matrixEnd_raise (transport_statusAllowed hc he) ?_ ?_⟩
  · rintro rfl; exact absurd he (by decide)
  · intro hlink; rw [hlink] at hc; cases hc

theorem endsInMatrix_removalTest (hc : usesTransport f.cmd = true) (use : Use) {goOn : State → State}
    (h : EndsInMatrix f.cmd (goOn s)) : EndsInMatrix f.cmd (removalTest f use goOn s) := by
  unfold removalTest
  split
  · exact endsInMatrix_raise hc use (by decide)
  · exact h

theorem endsInMatrix_pollTests (hf : f.todo = []) (hc : usesTransport f.cmd = true) (use : Use)
    (awaited : Bool) {onSuccess : State → State} (h : EndsInMatrix f.cmd (onSuccess s)) (again : Point) :
    EndsInMatrix f.cmd (pollTests f use awaited onSuccess again s) := by
  obtain ⟨e, he, heq⟩ | ⟨_, _, _, heq⟩ | ⟨_, heq⟩ | ⟨k, _, heq⟩ :=
    pollTests_cases f use awaited onSuccess again s <;> rw [heq]
  · exact endsInMatrix_raise hc use he
  · exact h
  · exact endsInMatrix_moves hf
  · exact endsInMatrix_moves hf

theorem endsInMatrix_afterLock (hf : f.todo = []) (use : Use) : EndsInMatrix c (afterLock f use s) := by
  cases use <;> exact endsInMatrix_moves hf

theorem endsInMatrix_afterPost (hf : f.todo = []) : EndsInMatrix c (afterPost f s) := by
  unfold afterPost
  split
  · exact endsInMatrix_returns (ps := [])
  · exact endsInMatrix_moves hf
  · exact endsInMatrix_moves hf

theorem endsInMatrix_afterRead (hf : f.todo = []) : EndsInMatrix c (afterRead f s) := by
  unfold afterRead
  split
  · exact endsInMatrix_returns (ps := [])
  · exact endsInMatrix_returns (ps := [])
  · exact endsInMatrix_moves hf

/-- A step of the transport raises, ends a raw command with `OK`, or goes on. -/
theorem endsInMatrix_transportStep (hf : f.todo = []) (hc : usesTransport f.cmd = true)
    (h : transportStep f s = .next t) : EndsInMatrix f.cmd t := by
  have goes (q : Point) : EndsInMatrix f.cmd (s.goto f q) := endsInMatrix_moves hf
  unfold transportStep at h
  split at h
  case h_1 =>
    split at h <;> cases h
    exact endsInMatrix_stageRequest _
  all_goals cases h
  case h_2 => exact endsInMatrix_removalTest hc _ (goes _)
  case h_6 => exact endsInMatrix_pollTests hf hc _ _ (endsInMatrix_afterLock hf _) _
  case h_11 => exact endsInMatrix_removalTest hc _ (endsInMatrix_afterPost hf)
  case h_12 => exact endsInMatrix_removalTest hc _ (goes _)
  case h_15 => exact endsInMatrix_pollTests hf hc _ _ (goes _) _
  case h_19 => exact endsInMatrix_removalTest hc _ (endsInMatrix_moves hf)
  case h_22 => exact endsInMatrix_removalTest hc _ (endsInMatrix_afterRead hf)
  all_goals exact endsInMatrix_moves hf

/-! ## The decoders (R124, R182) -/

section Decoders

variable {ws : List Word}

theorem endsInMatrix_decodeReset : EndsInMatrix .reset (decodeReset f ws s) := by
  have fails : EndsInMatrix .reset (plan [.macValid false, .fsm .ready, raise .invalidMacAddr] f s) :=
    endsInMatrix_raises (ps := [.macValid false, .fsm .ready]) rfl
  unfold decodeReset
  split
  · exact endsInMatrix_returns (ps := [.permAddr _, .filterType _, .macValid true, .fsm .ready])
  · exact fails
  · exact fails

theorem endsInMatrix_decodeSetMac {addr : MacAddr} :
    EndsInMatrix (.setMac addr) (decodeSetMac addr f ws s) := by
  unfold decodeSetMac
  split
  · exact endsInMatrix_raises (ps := [.curFromPerm]) rfl
  · exact endsInMatrix_returns (ps := [.curAddr addr])
  · exact endsInMatrix_raises (ps := []) rfl

theorem endsInMatrix_decodeUninspected : EndsInMatrix c (decodeUninspected f ws s) :=
  endsInMatrix_returns (ps := [])

theorem endsInMatrix_decodeSetMacvlan {index : Word} {addr : MacAddr} :
    EndsInMatrix (.setMacvlan index addr) (decodeSetMacvlan f ws s) := by
  unfold decodeSetMacvlan
  split
  · exact endsInMatrix_raises (ps := []) rfl
  · exact endsInMatrix_returns (ps := [])
  · exact endsInMatrix_raises (ps := []) rfl

theorem retaWrites_isEnd (k : Nat) (es : List (BitVec 2)) : ∀ p ∈ retaWrites k es, p.isEnd = false := by
  induction es generalizing k with
  | nil => exact List.forall_mem_nil _
  | cons e es ih => exact List.forall_mem_cons.2 ⟨rfl, ih (k + 1)⟩

theorem endsInMatrix_decodeGetReta : EndsInMatrix .getReta (decodeGetReta f ws s) := by
  unfold decodeGetReta
  split
  · exact endsInMatrix_raises (ps := []) rfl
  · exact endsInMatrix_returns (retaWrites_isEnd 0 _)
  · exact endsInMatrix_raises (ps := []) rfl

theorem endsInMatrix_decodeGetRssKey : EndsInMatrix .getRssKey (decodeGetRssKey f ws s) := by
  unfold decodeGetRssKey
  split
  · exact endsInMatrix_raises (ps := []) rfl
  · exact endsInMatrix_returns (ps := [.rssKey _])
  · exact endsInMatrix_raises (ps := []) rfl

theorem endsInMatrix_decodeNegotiate {version : Word} :
    EndsInMatrix (.negotiateApi version) (decodeNegotiate f ws s) := by
  unfold decodeNegotiate
  split
  · exact endsInMatrix_raises (ps := []) rfl
  · exact endsInMatrix_returns (ps := [.apiVersion _])
  · exact endsInMatrix_raises (ps := []) rfl

end Decoders

theorem endsInMatrix_interpretReply {ws : List Word} (h : interpretReply f ws s = .next t) :
    EndsInMatrix f.cmd t := by
  unfold interpretReply at h
  split at h <;> cases h <;> rename_i hc <;> rw [hc]
  · exact endsInMatrix_decodeReset
  · exact endsInMatrix_decodeSetMac
  · exact endsInMatrix_decodeUninspected
  · exact endsInMatrix_decodeUninspected
  · exact endsInMatrix_decodeSetMacvlan
  · exact endsInMatrix_decodeGetReta
  · exact endsInMatrix_decodeGetRssKey
  · exact endsInMatrix_decodeNegotiate

theorem endsInMatrix_operation (hf : f.todo = []) (hc : f.cmd = c) (hu : usesTransport c = true)
    {interpret : Frame → List Word → State → State} (hi : EndsInMatrix c (interpret f s.msg s))
    (h : operation interpret f s = .next t) : EndsInMatrix c t := by
  unfold operation at h
  split at h
  · cases h; exact hi
  · exact hc ▸ endsInMatrix_transportStep hf (hc ▸ hu) h

/-! ## The other commands -/

theorem endsInMatrix_stopStep (hf : f.todo = []) (h : stopStep f s = .next t) : EndsInMatrix .stop t := by
  unfold stopStep at h
  split at h <;> cases h
  case h_7 =>
    exact endsInMatrix_perform (endsInMatrix_returns (ps := [.stopped true, .fsm .stopped]))
  all_goals exact endsInMatrix_moves hf

theorem endsInMatrix_resetFails {e : ErrorKind} (he : statusAllowed .reset (.error e) = true)
    (hne : e ≠ .notSupported) : EndsInMatrix .reset (resetFails f e s) :=
  endsInMatrix_raises (ps := [.macValid false, .fsm .stopped]) he hne

theorem endsInMatrix_resetTests (hf : f.todo = []) : EndsInMatrix .reset (resetTests f s) := by
  unfold resetTests
  split
  · exact endsInMatrix_resetFails rfl (by decide)
  · split
    · exact endsInMatrix_moves hf
    · split
      · exact endsInMatrix_moves hf
      · split
        · exact endsInMatrix_resetFails rfl (by decide)
        · exact endsInMatrix_moves hf

theorem endsInMatrix_resetStep (hf : f.todo = []) (hc : f.cmd = .reset) (h : resetStep f s = .next t) :
    EndsInMatrix .reset t := by
  unfold resetStep at h
  split at h
  case h_11 => exact hc ▸ endsInMatrix_transportStep hf (hc ▸ rfl) h
  all_goals cases h
  case h_5 => exact endsInMatrix_resetTests hf
  case h_7 =>
    exact endsInMatrix_perform endsInMatrix_continues
  case h_8 => exact endsInMatrix_perform endsInMatrix_continues
  case h_10 => exact endsInMatrix_decodeReset
  all_goals exact endsInMatrix_moves hf

theorem endsInMatrix_startStep (h : startStep f s = .next t) : EndsInMatrix .start t := by
  unfold startStep at h
  split at h <;> cases h
  exact endsInMatrix_perform (endsInMatrix_returns (ps := [.stopped false]))

theorem endsInMatrix_initStep (h : initStep f s = .next t) : EndsInMatrix .init t := by
  unfold initStep at h
  split at h <;> cases h
  exact endsInMatrix_perform
    (endsInMatrix_returns (ps := [.stopped false, .curFromPerm]))

theorem endsInMatrix_readHandleStep {field : HandleField} (h : readHandleStep field f s = .next t) :
    EndsInMatrix c t := by
  unfold readHandleStep at h
  split at h
  · split at h <;> cases h <;> exact endsInMatrix_perform (endsInMatrix_returns (ps := []))
  · cases h

theorem endsInMatrix_mtaVectorStep {addr : MacAddr} {filterType : Word}
    (h : mtaVectorStep addr filterType f s = .next t) : EndsInMatrix (.mtaVector addr filterType) t := by
  unfold mtaVectorStep at h
  split at h <;> cases h
  refine endsInMatrix_perform (endsInMatrix_returns fun p hp => ?_)
  obtain ⟨-, hend, -⟩ := steady_diagnose (c := .mtaVector addr filterType) (fun _ => rfl) filterType p hp
  exact hend

theorem hashSteps_isEnd (list : List MacAddr) (filterType : Word) :
    ∀ p ∈ hashSteps list filterType, p.isEnd = false := fun p hp => by
  obtain ⟨a, -, hp⟩ := List.mem_flatMap.1 hp
  obtain hp | hp := List.mem_append.1 hp
  · obtain ⟨-, hend, -⟩ := steady_diagnose (c := .updateMc list) (fun _ => rfl) filterType p hp
    exact hend
  · rw [List.mem_singleton.1 hp]; rfl

theorem endsInMatrix_updateMcStep (hf : f.todo = []) {list : List MacAddr} (hc : f.cmd = .updateMc list)
    (h : updateMcStep list f s = .next t) : EndsInMatrix (.updateMc list) t := by
  unfold updateMcStep at h
  split at h
  · cases h; exact endsInMatrix_continues (hashSteps_isEnd list _)
  · exact endsInMatrix_operation hf hc rfl (endsInMatrix_decodeUninspected) h

/-- CHECK_LINK's errors come with link down and speed unknown (R240). -/
theorem endsInMatrix_linkError {e : ErrorKind} (he : statusAllowed .checkLink (.error e) = true)
    (hne : e ≠ .notSupported) : EndsInMatrix .checkLink (plan (linkError e) f s) :=
  endsInMatrix_ends (ps := [.linkUp false, .linkSpeed .unknown]) 
    fun _ => ⟨he, by simpa using hne, fun _ _ => rfl⟩

theorem endsInMatrix_linkOk (w : Config.Window) (l : Word) :
    EndsInMatrix .checkLink (plan (linkOk w l) f s) := by
  refine endsInMatrix_returns (ps := [.linkUp _, decodeSpeed w _]) ?_
  have hspeed : (decodeSpeed w (speedField w l)).isEnd = false := by
    unfold decodeSpeed
    split_ifs <;> rfl
  simpa [Prim.isEnd] using hspeed

theorem endsInMatrix_checkLinkStep (hf : f.todo = []) (h : checkLinkStep f s = .next t) :
    EndsInMatrix .checkLink t := by
  unfold checkLinkStep at h
  split at h <;> cases h
  · exact endsInMatrix_moves hf
  · split
    · exact endsInMatrix_linkError rfl (by decide)
    · split
      · exact endsInMatrix_linkError rfl (by decide)
      · exact endsInMatrix_moves hf
  · exact endsInMatrix_moves hf
  · split
    · exact endsInMatrix_linkError rfl (by decide)
    · exact endsInMatrix_linkOk _ _

theorem endsInMatrix_checkForRstStep (hf : f.todo = []) (h : checkForRstStep f s = .next t) :
    EndsInMatrix c t := by
  unfold checkForRstStep at h
  split at h <;> cases h
  · exact endsInMatrix_moves hf
  · exact endsInMatrix_perform (endsInMatrix_returns (ps := []))

/-! ## The step -/

section Deciding

variable (hs : s.seq = .busy f) (hf : f.todo = [])
include hs hf

theorem endsInMatrix_aside (ht : t.seq = s.seq) : EndsInMatrix c t := endsInMatrix_busy (ht.trans hs) hf

/-- A running command with nothing pending ends by its own step only. -/
theorem endsInMatrix_command {i : Instr} {offer : State → State} {body : Frame → State → Outcome}
    (h : command i offer body s = .next t) (hb : f.cmd = i → body f s = .next t → EndsInMatrix i t) :
    EndsInMatrix f.cmd t := by
  obtain ⟨hi, _⟩ | ⟨g, hg, _, ht, _⟩ | ⟨g, hg, hc, _, hn⟩ | ⟨_, _, _, hn⟩ := command_cases h
  · rw [hs] at hi; cases hi
  · rw [hs] at hg; cases hg; exact absurd hf ht
  · rw [hs] at hg; cases hg; exact hc ▸ hb hc hn.symm
  · cases hn; exact endsInMatrix_aside hs hf rfl

theorem endsInMatrix_requestStep {r : Instr} (h : requestStep r s = .next t) : EndsInMatrix f.cmd t := by
  simp only [requestStep, hs] at h
  split at h <;> cases h
  · exact endsInMatrix_stageRequest r
  · exact endsInMatrix_aside hs hf rfl

theorem endsInMatrix_replyStep {r : Instr} (h : replyStep r s = .next t) : EndsInMatrix f.cmd t := by
  simp only [replyStep, hs] at h
  split at h
  · exact endsInMatrix_interpretReply h
  · cases h; exact endsInMatrix_aside hs hf rfl

/-- The execution of an instruction while a command runs with nothing pending. -/
theorem endsInMatrix_exec {i : Instr} (h : exec i s = .next t) : EndsInMatrix f.cmd t := by
  cases i with
  | resetReq | setMacReq | setVlanReq | setMulticastReq | setMacvlanReq | apiNegotiateReq | getRetaReq
  | getRssKeyReq => exact endsInMatrix_requestStep hs hf h
  | resetAck | setMacAck | setMacNack | apiNegotiateAck | apiNegotiateNack | setMacvlanAck
  | setMacvlanNack | getRetaSuccess | getRetaFailure | getRssKeySuccess | getRssKeyFailure | setVlanAck
  | setVlanNack | setMulticastAck | setMulticastNack => exact endsInMatrix_replyStep hs hf h
  | stop => exact endsInMatrix_command hs hf h fun _ => endsInMatrix_stopStep hf
  | reset =>
    exact endsInMatrix_command hs hf (show execReset s = _ from h) fun hc => endsInMatrix_resetStep hf hc
  | start => exact endsInMatrix_command hs hf h fun _ => endsInMatrix_startStep
  | init => exact endsInMatrix_command hs hf h fun _ => endsInMatrix_initStep
  | mtaVector => exact endsInMatrix_command hs hf h fun _ => endsInMatrix_mtaVectorStep
  | readHandle => exact endsInMatrix_command hs hf h fun _ => endsInMatrix_readHandleStep
  | checkLink => exact endsInMatrix_command hs hf h fun _ => endsInMatrix_checkLinkStep hf
  | checkForRst mailboxId =>
    exact endsInMatrix_command hs hf (show execCheckForRst mailboxId s = _ from h) fun _ =>
      endsInMatrix_checkForRstStep hf
  | setMac =>
    exact endsInMatrix_command hs hf h fun hc =>
      endsInMatrix_operation hf hc rfl endsInMatrix_decodeSetMac
  | setVlan =>
    exact endsInMatrix_command hs hf h fun hc =>
      endsInMatrix_operation hf hc rfl endsInMatrix_decodeUninspected
  | updateMc => exact endsInMatrix_command hs hf h fun hc => endsInMatrix_updateMcStep hf hc
  | setMacvlan index addr =>
    exact endsInMatrix_command hs hf (show execSetMacvlan index addr s = _ from h) fun hc =>
      endsInMatrix_operation hf hc rfl endsInMatrix_decodeSetMacvlan
  | getReta =>
    exact endsInMatrix_command hs hf h fun hc =>
      endsInMatrix_operation hf hc rfl endsInMatrix_decodeGetReta
  | getRssKey =>
    exact endsInMatrix_command hs hf h fun hc =>
      endsInMatrix_operation hf hc rfl endsInMatrix_decodeGetRssKey
  | negotiateApi =>
    exact endsInMatrix_command hs hf h fun hc =>
      endsInMatrix_operation hf hc rfl endsInMatrix_decodeNegotiate
  | writePosted msg len mailboxId =>
    exact endsInMatrix_command hs hf (show execWritePosted msg len mailboxId s = _ from h) fun hc hb =>
      hc ▸ endsInMatrix_transportStep hf (hc ▸ rfl) hb
  | readPosted len mailboxId =>
    exact endsInMatrix_command hs hf (show execReadPosted len mailboxId s = _ from h) fun hc hb =>
      hc ▸ endsInMatrix_transportStep hf (hc ▸ rfl) hb
  | exchange reqLen rspLen =>
    exact endsInMatrix_command hs hf (show execExchange reqLen rspLen s = _ from h) fun hc hb =>
      hc ▸ endsInMatrix_transportStep hf (hc ▸ rfl) hb

/-- A step made with nothing pending, whoever moves. -/
theorem endsInMatrix_step (h : step s = .next t) : EndsInMatrix f.cmd t := by
  have hseq := nextMove_seq s
  obtain ⟨i, hexec, -⟩ | ⟨-, ht⟩ := step_cases h
  · exact endsInMatrix_exec (hseq.trans hs) hf hexec
  · exact endsInMatrix_aside hs hf (ht.trans hseq)

end Deciding

/-- A pending update that ends the command hands over a status of its row (R265). -/
theorem runNext_end (hs : PendingOk s) (hf : s.seq = .busy f) (hi : (runNext s).seq = .idle) :
    ∃ r, (runNext s).result = some r ∧ statusAllowed f.cmd r.status = true := by
  cases hps : f.todo with
  | nil =>
    rw [runNext_settled fun g hg => by rw [hf] at hg; cases hg; exact hps, hf] at hi
    cases hi
  | cons p ps =>
    obtain ⟨-, hallowed, -⟩ := hs f hf
    have hp : primOk f.cmd p = true := hallowed p (hps ▸ List.mem_cons_self)
    rw [runNext_cons hf hps] at hi ⊢
    have hend := (runPrim_idle (plan_seq ps f s)).1 hi
    cases p with
    | ends status what => exact ⟨_, rfl, hp⟩
    | _ => cases hend

/-- Whichever step ends a command hands over a status of its row (R265). -/
theorem step_ends_allowed (hs : PendingOk s) (hf : s.seq = .busy f) (h : step s = .next t)
    (hi : t.seq = .idle) : ∃ r, t.result = some r ∧ statusAllowed f.cmd r.status = true := by
  by_cases ht : f.todo = []
  · have hend := endsInMatrix_step hf ht h
    rw [EndsInMatrix, settled_idle hi] at hend
    obtain ⟨r, hr, hmatrix⟩ := hend hi
    exact ⟨r, hr, hmatrix.allowed⟩
  · have hseq := nextMove_seq s
    have hfu := hseq.trans hf
    obtain ⟨i, hexec, ⟨-, hcur⟩ | ⟨-, hidle⟩⟩ | ⟨-, htu⟩ := step_cases h
    · rw [currentInstr_pending hfu ht] at hcur
      cases hcur
      rw [exec_pending hfu ht (group_of_pointOf (hs f hf).1)] at hexec
      cases hexec
      exact runNext_end (by unfold PendingOk; rwa [hseq]) hfu hi
    · rw [hfu] at hidle; cases hidle
    · rw [htu, hfu] at hi; cases hi

end Ends

/-! ## A command that is not accepted (R181, R212, R260) -/

/-- An offered command that leaves the block idle was refused, or is a query that is not supported (R181,
R260). -/
def OnlyAccepts (c : Instr) (s t : State) : Prop :=
  t.seq = .idle → t = { s with refusalMark := true } ∨
    ((c = .getReta ∨ c = .getRssKey) ∧ ¬ (s.h.apiVersion ∈ s.cfg.apiRssSet ∧ s.cfg.gen = .g82599) ∧
      t = ended s s.h ⟨.error .notSupported, .none⟩)

section Admission

variable {c : Instr} {s t : State} {g : Frame}

theorem onlyAccepts_accept : OnlyAccepts c s (accept g s) := by rintro ⟨⟩

theorem onlyAccepts_refuse : OnlyAccepts c s (refuse s) := fun _ => .inl rfl

theorem onlyAccepts_if (p : Prop) [Decidable p] (h : OnlyAccepts c s t) :
    OnlyAccepts c s (if p then t else refuse s) := by
  split
  · exact h
  · exact onlyAccepts_refuse

theorem onlyAccepts_admitReady : OnlyAccepts c s (admitReady g s) := onlyAccepts_if _ onlyAccepts_accept

theorem onlyAccepts_admitQuery (hc : c = .getReta ∨ c = .getRssKey) : OnlyAccepts c s (admitQuery g s) := by
  unfold admitQuery
  split
  · exact onlyAccepts_admitReady
  · rename_i hno
    exact fun _ => .inr ⟨hc, mt rssQuerySupported_iff.2 hno, rfl⟩

theorem onlyAccepts_command {offer : State → State} {body : Frame → State → Outcome} (hs : s.seq = .idle)
    (h : command c offer body s = .next t) (ho : OnlyAccepts c s (offer s)) : OnlyAccepts c s t := by
  rw [command_idle hs] at h
  cases h
  exact ho

/-- Every command offered to an idle block. -/
theorem onlyAccepts_exec (hc : c.group = .command) (hs : s.seq = .idle) (h : exec c s = .next t) :
    OnlyAccepts c s t := by
  cases c with
  | stop | start | init | mtaVector | readHandle | checkLink =>
    exact onlyAccepts_command hs h onlyAccepts_accept
  | setMac | setVlan | updateMc | negotiateApi => exact onlyAccepts_command hs h onlyAccepts_admitReady
  | getReta => exact onlyAccepts_command hs h (onlyAccepts_admitQuery (.inl rfl))
  | getRssKey => exact onlyAccepts_command hs h (onlyAccepts_admitQuery (.inr rfl))
  | reset =>
    exact onlyAccepts_command hs (show execReset s = _ from h) (onlyAccepts_if _ onlyAccepts_accept)
  | setMacvlan index addr =>
    exact onlyAccepts_command hs (show execSetMacvlan index addr s = _ from h)
      (onlyAccepts_if _ onlyAccepts_admitReady)
  | checkForRst mailboxId =>
    exact onlyAccepts_command hs (show execCheckForRst mailboxId s = _ from h)
      (onlyAccepts_if _ onlyAccepts_accept)
  | writePosted msg len mailboxId =>
    exact onlyAccepts_command hs (show execWritePosted msg len mailboxId s = _ from h)
      (onlyAccepts_if _ onlyAccepts_accept)
  | readPosted len mailboxId =>
    exact onlyAccepts_command hs (show execReadPosted len mailboxId s = _ from h)
      (onlyAccepts_if _ onlyAccepts_accept)
  | exchange reqLen rspLen =>
    exact onlyAccepts_command hs (show execExchange reqLen rspLen s = _ from h)
      (onlyAccepts_if _ onlyAccepts_accept)
  | _ => cases hc

/-- Only the rows of the two queries hold NotSupported (R181, R265). -/
theorem notSupported_allowed_iff : statusAllowed c (.error .notSupported) = true ↔
    c = .getReta ∨ c = .getRssKey := by
  cases c with
  | getReta => exact ⟨fun _ => .inl rfl, fun _ => rfl⟩
  | getRssKey => exact ⟨fun _ => .inr rfl, fun _ => rfl⟩
  | _ => exact ⟨(by rintro ⟨⟩), by rintro (⟨⟨⟩⟩ | ⟨⟨⟩⟩)⟩

end Admission
end Sys2Proof.Machine
end

section
/-!
The matrix of statuses (R265), from the matrix to the model: for every command and every status of its row a state
with the invariant whose next step decides that end.
-/

namespace Sys2Proof.Machine

open Sys2Proof

/-! ## A machine with a command at a point -/

/-- The frame of `c` at `p`, in the last iteration of a loop, with the sample `v`. -/
def standingFrame (c : Instr) (p : Point) (v : Word) : Frame :=
  { Frame.start c p (some .resetReq) 0 with n := some 1, v := v }

/-- The handle of a machine of the default parameters in which `c` stands at `p`: armed, with a valid address, in
`Ready` or in the control state RESET has reached at `p`. -/
def standingHandle (c : Instr) (p : Point) (gone : Bool) : Handle :=
  { Handle.constructed Config.defaults with
    fsm := if c = .reset then resetPhase p else .ready
    mbxTimeout := Config.defaults.mbxInitTimeout
    macValid := true
    removed := gone }

/-- That machine, with word 0 of `MSG`. -/
def standing (c : Instr) (p : Point) (gone : Bool) (v w0 : Word) : State :=
  { State.reset with
    h := standingHandle c p gone
    msg := w0 :: List.replicate 15 0#32
    seq := .busy (standingFrame c p v) }

section Standing

variable {c : Instr} {p : Point} (gone : Bool) (v w0 : Word)

theorem standing_at : At (standing c p gone v w0) (standingFrame c p v) c p := ⟨rfl, rfl, rfl, rfl⟩

theorem standing_static : Static (standing c p gone v w0) :=
  { (inv_constructed Config.defaults_ok).static with
    msgLength := rfl
    keyLength := (inv_constructed Config.defaults_ok).static.keyLength
    retaLength := (inv_constructed Config.defaults_ok).static.retaLength }

theorem standingFrame_ok (hp : pointOf c p = true) (hh : p ≠ .hash) :
    (standingFrame c p v).ok Config.defaults = true :=
  (Frame.ok_iff _ _).2 ⟨hp, fun h => absurd h hh, by rintro _ ⟨⟩; exact ⟨rfl, rfl⟩, by rintro ⟨⟩⟩

theorem standing_control (hp : pointOf c p = true) (hh : p ≠ .hash) :
    Control (standing c p gone v w0) := by
  by_cases hc : c = .reset
  · exact control_of_reset rfl hc (standingFrame_ok v hp hh) (if_pos hc) fun _ => ⟨rfl, rfl⟩
  · have hfsm : (standing c p gone v w0).h.fsm = .ready := if_neg hc
    constructor
    case frame => rintro _ ⟨⟩; exact standingFrame_ok v hp hh
    case operation => exact fun _ _ _ => hfsm
    case phase => rintro _ ⟨⟩ h; exact absurd h hc
    case middle => rw [hfsm]; rintro (⟨⟨⟩⟩ | ⟨⟨⟩⟩)
    case armed => exact fun _ => rfl
    case rebased => rintro _ ⟨⟩ h; exact absurd h hc

theorem inv_standing (hp : pointOf c p = true) (hh : p ≠ .hash) : Inv (standing c p gone v w0) := by
  have hcontrol := standing_control gone v w0 hp hh
  refine (standing_static gone v w0).inv ?_ hcontrol.middle (by rwa [settled_none rfl rfl])
  rintro _ ⟨⟩
  exact ⟨hp, List.forall_mem_nil _, List.forall_mem_nil _, Nat.zero_le 1⟩

end Standing

/-! ## Statuses that can occur -/

/-- A deciding step from a state with the invariant ends `c` with `status`. -/
def Possible (c : Instr) (status : Status) : Prop :=
  ∃ (s t : State) (f : Frame) (r : Result), Inv s ∧ settled s = s ∧ s.seq = .busy f ∧ f.cmd = c ∧
    step s = .next t ∧ (settled t).seq = .idle ∧ (settled t).result = some r ∧ r.status = status

section Possible

variable {c i : Instr} {p : Point} {gone : Bool} {v w0 : Word} {status : Status}

/-- One execution of the machine's current instruction shows that a status can occur. -/
theorem possible_of_exec (hp : pointOf c p = true) (hh : p ≠ .hash)
    (hi : currentInstr (standing c p gone v w0) = some i)
    (h : ∃ t o, exec i (standing c p gone v w0) = .next t ∧ (settled t).seq = .idle ∧
      (settled t).result = some ⟨status, o⟩) : Possible c status := by
  obtain ⟨t, o, hexec, hidle, hresult⟩ := h
  exact ⟨_, t, _, _, inv_standing gone v w0 hp hh, settled_none rfl rfl, rfl, rfl,
    (step_unscheduled rfl hi).trans hexec, hidle, hresult, rfl⟩

/-- An outcome that settles to the end of the command, as the statements about its steps have it. -/
theorem ends_of_settled {s u : State} {h : Handle} {o : Output}
    (he : ∃ t, exec i s = .next t ∧ settled t = ended u h ⟨status, o⟩) :
    ∃ t o, exec i s = .next t ∧ (settled t).seq = .idle ∧ (settled t).result = some ⟨status, o⟩ := by
  obtain ⟨t, ht, hend⟩ := he
  exact ⟨t, o, ht, by rw [hend]; rfl, by rw [hend]; rfl⟩

/-- Away from its encoder and decoder the command itself is executed. -/
theorem possible_at (hp : pointOf c p = true) {u : State} {h : Handle} {o : Output}
    (hown : p ≠ .encode ∧ p ≠ .decode ∧ p ≠ .hash)
    (he : ∃ t, exec c (standing c p gone v w0) = .next t ∧ settled t = ended u h ⟨status, o⟩) :
    Possible c status :=
  possible_of_exec hp hown.2.2 (currentInstr_own (standing_at gone v w0) ⟨hown.1, hown.2.1⟩) (ends_of_settled he)

/-- At its decoder the command is executed on words that are no message of the table. -/
theorem possible_decode (hp : pointOf c .decode = true) {e : DecodeError} {u : State} {h : Handle} {o : Output}
    (hd : decode Config.defaults.codes (w0 :: List.replicate 15 0#32) = .error e)
    (he : ∃ t, exec c (standing c .decode gone v w0) = .next t ∧ settled t = ended u h ⟨status, o⟩) :
    Possible c status :=
  possible_of_exec hp (by decide)
    (currentInstr_decode_error (standing_at gone v w0).1 rfl rfl hd) (ends_of_settled he)

/-! ## Samples and words (R9, R68) -/

theorem showsReset_zero : showsReset Config.defaults.window 0#32 = false := by decide

theorem showsLock_zero : ¬ showsLock Config.defaults.window 0#32 = true := by decide

theorem showsReset_rstip :
    showsReset Config.defaults.window (bitMask Config.defaults.window.mbxRstip) = true := by decide

/-- By default the two flags of the queries stand where those of the other operations do (R9). -/
theorem verdictFlags_defaults (c : Instr) : verdictFlags Config.defaults.codes c
    = (Config.defaults.codes.flagAck, Config.defaults.codes.flagNack) := by
  unfold verdictFlags
  split <;> rfl

theorem flagAck_alone : Config.defaults.codes.flagAck &&& ~~~Config.defaults.codes.flagCts
    = 0#32 ||| Config.defaults.codes.flagAck := by decide

theorem flagNack_alone : Config.defaults.codes.flagNack &&& ~~~Config.defaults.codes.flagCts
    = 0#32 ||| Config.defaults.codes.flagNack := by decide

/-! ## The transport errors (R261) -/

/-- Every command that uses the transport runs one of its contracts. -/
theorem runsSide_of_usesTransport (hc : usesTransport c = true) : ∃ use, runsSide use c = true := by
  cases c with
  | readPosted => exact ⟨.read, rfl⟩
  | _ => exact ⟨.post, hc⟩

theorem possible_transportError (hc : usesTransport c = true) {e : ErrorKind} (he : e ∈ transportErrors) :
    Possible c (.error e) := by
  obtain ⟨use, huse⟩ := runsSide_of_usesTransport hc
  have hp : pointOf c (.lockTest use) = true := (pointOf_onSide (onSide_lockTest use) c).trans huse
  have fails {gone : Bool} {v : Word} (hf : FailsWith (standing c (.lockTest use) gone v 0#32) c e) :
      Possible c (.error e) := by
    obtain ⟨t, hexec, hidle, hresult, -⟩ := hf
    exact possible_of_exec hp (by simp)
      (currentInstr_own (standing_at gone v 0#32) (by simp)) ⟨t, _, hexec, hidle, hresult⟩
  have exits (gone : Bool) (v : Word) :=
    poll_exits (exec_lockTest hc (standing_at (c := c) (p := .lockTest use) gone v 0#32)) rfl
  obtain rfl | rfl | rfl : e = .transportTimeout ∨ e = .deviceRemoved ∨ e = .resetInProgress := by
    simpa [transportErrors] using he
  · obtain ⟨-, -, -, hlast, -⟩ := exits false 0#32
    exact fails (hlast rfl showsReset_zero showsLock_zero rfl)
  · obtain ⟨hgone, -⟩ := exits true 0#32
    exact fails (hgone rfl)
  · obtain ⟨-, hreset, -⟩ := exits false (bitMask Config.defaults.window.mbxRstip)
    exact fails (hreset rfl showsReset_rstip)

/-! ## The other errors -/

/-- The word that stands in `MSG` behind a verdict flag and nothing else is no message of the table. -/
theorem possible_mismatch (hi : InspectsReply c) : Possible c (.error .protocolMismatch) := by
  have hp : pointOf c .decode = true := by rw [pointOf_decode, hi.isOperation]; rfl
  refine possible_decode (gone := false) (v := 0#32) (w0 := 0#32) hp rfl
    (exec_decode_mismatch (standing_at _ _ _) hi (verdictFlags_defaults c) ?_ ?_)
  · exact (by decide : ¬ 0#32 &&& ~~~Config.defaults.codes.flagCts = 0#32 ||| Config.defaults.codes.flagAck)
  · exact (by decide : ¬ 0#32 &&& ~~~Config.defaults.codes.flagCts = 0#32 ||| Config.defaults.codes.flagNack)

theorem possible_refusal (hi : InspectsReply c) (hmac : ∀ a, c ≠ .setMac a) :
    Possible c (.error (refusalError c)) := by
  have hp : pointOf c .decode = true := by rw [pointOf_decode, hi.isOperation]; rfl
  refine possible_decode (gone := false) (v := 0#32) (w0 := Config.defaults.codes.flagNack) hp rfl
    (exec_decode_negative (standing_at _ _ _) hi hmac (verdictFlags_defaults c) flagNack_alone)

theorem possible_setMac_nacked (a : MacAddr) : Possible (.setMac a) (.error .nacked) := by
  obtain ⟨-, hnack, -⟩ := setMacInterpretsReply (standing (.setMac a) .decode false 0#32
    Config.defaults.codes.flagNack) _ a (standing_at _ _ _) Config.defaults_ok.codes BitVec.zero_and
  exact possible_decode rfl rfl (hnack flagNack_alone rfl)

theorem possible_reset_timeout : Possible .reset (.error .resetTimeout) := by
  obtain ⟨-, -, hlast, -⟩ := resetIndicatorLoop (standing .reset .rstTest false
    (bitMask Config.defaults.window.mbxRstip) 0#32) _ 1 (standing_at _ _ _) rfl
  exact possible_at rfl (by decide) (hlast rfl showsReset_rstip rfl)

theorem possible_reset_invalidMacAddr : Possible .reset (.error .invalidMacAddr) := by
  obtain ⟨-, hbad⟩ := resetInterpretsReply (standing .reset .decode false 0#32 0#32) _ (standing_at _ _ _)
    Config.defaults_ok.codes
  exact possible_decode rfl rfl (hbad (by decide))

theorem possible_checkLink_removed : Possible .checkLink (.error .deviceRemoved) := by
  obtain ⟨-, -, hgone, -⟩ := checkLinkReportsErrors (standing .checkLink .indicatorTest true 0#32 0#32)
    (standingFrame .checkLink .indicatorTest 0#32)
  exact possible_at rfl (by decide) (hgone (standing_at _ _ _) rfl)

theorem possible_checkLink_reset : Possible .checkLink (.error .resetInProgress) := by
  obtain ⟨-, -, -, hreset, -⟩ := checkLinkReportsErrors (standing .checkLink .indicatorTest false
    (bitMask Config.defaults.window.mbxRstip) 0#32) (standingFrame .checkLink .indicatorTest _)
  exact possible_at rfl (by decide) (hreset (standing_at _ _ _) rfl showsReset_rstip)

/-! ## `OK` -/

/-- The end may be reached in the step itself. -/
theorem possible_now (hp : pointOf c p = true) (hown : p ≠ .encode ∧ p ≠ .decode ∧ p ≠ .hash) {u : State}
    {h : Handle} {o : Output} (he : exec c (standing c p gone v w0) = .next (ended u h ⟨status, o⟩)) :
    Possible c status := possible_at hp hown ⟨_, he, settled_idle rfl⟩

theorem possible_start_ok : Possible .start .ok := by
  obtain ⟨-, hrun⟩ := startClearsStoppedFlag (standing .start .run false 0#32 0#32)
  exact possible_at rfl (by decide) (hrun _ (standing_at _ _ _))

theorem possible_init_ok : Possible .init .ok := by
  obtain ⟨-, hvalid, -⟩ := initCopiesPermanentAddress (standing .init .run false 0#32 0#32) _
    (standing_at _ _ _)
  exact possible_at rfl (by decide) (hvalid rfl)

theorem possible_mtaVector_ok (a : MacAddr) (t : Word) : Possible (.mtaVector a t) .ok := by
  have hat := standing_at (c := .mtaVector a t) (p := .run) false 0#32 0#32
  by_cases ht : 3 < t.toNat
  · obtain ⟨-, hinvalid⟩ := mtaVectorReturnsHash _ _ a t hat
    exact possible_at rfl (by decide) (hinvalid ht)
  · have hexec := exec_mtaVector_at hat
    rw [diagnose_valid (Nat.le_of_not_lt ht)] at hexec
    exact possible_now rfl (by decide) hexec

theorem possible_readHandle_ok (field : HandleField) : Possible (.readHandle field) .ok := by
  obtain ⟨hread, -⟩ := readHandleReturnsRegister (standing (.readHandle field) .run false 0#32 0#32) _ field
    (standing_at _ _ _)
  exact possible_now rfl (by decide) (hread (.inr rfl))

theorem possible_stop_ok : Possible .stop .ok := by
  obtain ⟨-, -, -, -, -, -, hdone⟩ := stopMarksStopped (standing .stop .stopDone false 0#32 0#32)
    (standingFrame .stop .stopDone 0#32)
  exact possible_at rfl (by decide) (hdone (standing_at _ _ _))

/-- A reset reply in `MSG` is executed as the row it is (R107). -/
theorem possible_reset_ok : Possible .reset .ok := by
  have hat := standing_at (c := .reset) (p := .decode) false 0#32
    (Config.defaults.codes.opReset ||| Config.defaults.codes.flagAck)
  obtain ⟨hack, -⟩ := addressRepliesComplete (standing .reset .decode false 0#32 _) _ false
    Config.defaults_ok.codes
  exact possible_of_exec rfl (by decide) (currentInstr_decode_reply hat.1 rfl rfl rfl rfl)
    (ends_of_settled (hack hat _ _))

theorem possible_setMac_ok (a : MacAddr) : Possible (.setMac a) .ok := by
  obtain ⟨hack, -⟩ := setMacInterpretsReply (standing (.setMac a) .decode false 0#32
    Config.defaults.codes.flagAck) _ a (standing_at _ _ _) Config.defaults_ok.codes BitVec.zero_and
  exact possible_decode rfl rfl (hack flagAck_alone)

theorem possible_setMacvlan_ok (x : Word) (a : MacAddr) : Possible (.setMacvlan x a) .ok := by
  obtain ⟨-, hack, -⟩ := macvlanAndNegotiateInterpretReply (standing (.setMacvlan x a) .decode false 0#32
    Config.defaults.codes.flagAck) _ _ (standing_at _ _ _) Config.defaults_ok.codes BitVec.zero_and
  exact possible_decode rfl rfl (hack x a rfl flagAck_alone)

theorem possible_negotiateApi_ok (version : Word) : Possible (.negotiateApi version) .ok := by
  obtain ⟨-, -, hack⟩ := macvlanAndNegotiateInterpretReply (standing (.negotiateApi version) .decode false
    0#32 Config.defaults.codes.flagAck) _ _ (standing_at _ _ _) Config.defaults_ok.codes BitVec.zero_and
  exact possible_decode rfl rfl (hack version rfl flagAck_alone)

theorem possible_getReta_ok : Possible .getReta .ok := by
  obtain ⟨-, hack, -⟩ := queriesInterpretReply (standing .getReta .decode false 0#32
    Config.defaults.codes.flagAck) _ _ (standing_at _ _ _) Config.defaults_ok.codes BitVec.zero_and
  exact possible_decode rfl rfl (hack rfl (standing_static _ _ _).retaLength flagAck_alone)

theorem possible_getRssKey_ok : Possible .getRssKey .ok := by
  obtain ⟨-, -, hack⟩ := queriesInterpretReply (standing .getRssKey .decode false 0#32
    Config.defaults.codes.flagAck) _ _ (standing_at _ _ _) Config.defaults_ok.codes BitVec.zero_and
  exact possible_decode rfl rfl (hack rfl flagAck_alone)

/-- SET_VLAN and UPDATE_MC return `OK` whatever stands in `MSG` (R303). -/
theorem possible_uninspected_ok
    (hc : (∃ vlanId vlanOn, c = .setVlan vlanId vlanOn) ∨ (∃ list, c = .updateMc list))
    (hp : pointOf c .decode = true) : Possible c .ok := by
  obtain ⟨hok, -⟩ := uninspectedRepliesReturnOk (standing c .decode false 0#32 0#32) _ c (standing_at _ _ _) hc
  exact possible_decode hp rfl hok

theorem possible_writePosted_ok (m : List Word) (n d : Nat) : Possible (.writePosted m n d) .ok := by
  obtain ⟨-, -, -, hdone⟩ := postingEnds (standing (.writePosted m n d) .postDone false 0#32 0#32) _
    (.writePosted m n d) rfl
  obtain ⟨hraw, -⟩ := hdone (standing_at _ _ _) rfl
  exact possible_at rfl (by decide) (hraw m n d rfl)

theorem possible_readPosted_ok (n d : Nat) : Possible (.readPosted n d) .ok := by
  obtain ⟨-, -, -, -, -, -, -, -, -, hdone⟩ :=
    readingCopiesAndEnds (standing (.readPosted n d) .readDone false 0#32 0#32) _ (.readPosted n d) rfl
  obtain ⟨hraw, -⟩ := hdone (standing_at _ _ _) rfl
  exact possible_at rfl (by decide) (hraw n d rfl)

theorem possible_exchange_ok (a b : Nat) : Possible (.exchange a b) .ok := by
  obtain ⟨-, -, -, -, -, -, -, -, -, hdone⟩ :=
    readingCopiesAndEnds (standing (.exchange a b) .readDone false 0#32 0#32) _ (.exchange a b) rfl
  obtain ⟨-, hraw, -⟩ := hdone (standing_at _ _ _) rfl
  exact possible_at rfl (by decide) (hraw a b rfl)

theorem possible_checkForRst_ok (id : Nat) : Possible (.checkForRst id) .ok := by
  obtain ⟨htest, -⟩ := checkForRstReturnsIndicator (standing (.checkForRst id) .indicatorTest false 0#32 0#32)
    (standingFrame _ _ 0#32) id
  exact possible_now rfl (by decide) (htest (standing_at _ _ _))

theorem possible_checkLink_ok : Possible .checkLink .ok := by
  obtain ⟨hdecodes, -⟩ := checkLinkDecodesSample
  obtain ⟨-, hdrawn⟩ := hdecodes (standing .checkLink .linksTest false 0#32 0#32) _ (standing_at _ _ _) rfl
    Config.defaults_ok
  obtain ⟨sp, tape, drawn, hend⟩ := hdrawn (by decide)
  exact possible_at rfl (by decide) hend

theorem possible_ok (hc : c.group = .command) : Possible c .ok := by
  cases c with
  | stop => exact possible_stop_ok
  | reset => exact possible_reset_ok
  | start => exact possible_start_ok
  | init => exact possible_init_ok
  | setMac => exact possible_setMac_ok _
  | setVlan => exact possible_uninspected_ok (.inl ⟨_, _, rfl⟩) rfl
  | mtaVector => exact possible_mtaVector_ok _ _
  | updateMc => exact possible_uninspected_ok (.inr ⟨_, rfl⟩) rfl
  | setMacvlan => exact possible_setMacvlan_ok _ _
  | getReta => exact possible_getReta_ok
  | getRssKey => exact possible_getRssKey_ok
  | negotiateApi => exact possible_negotiateApi_ok _
  | checkLink => exact possible_checkLink_ok
  | writePosted => exact possible_writePosted_ok _ _ _
  | readPosted => exact possible_readPosted_ok _ _
  | checkForRst => exact possible_checkForRst_ok _
  | readHandle => exact possible_readHandle_ok _
  | exchange => exact possible_exchange_ok _ _
  | _ => cases hc

/-! ## Every status of a row (R265) -/

/-- A row of the command's own errors and the transport's. -/
theorem possible_row (hc : usesTransport c = true) {own : List ErrorKind} {e : ErrorKind}
    (he : e ∈ own ++ transportErrors) (hown : ∀ e ∈ own, e ≠ .notSupported → Possible c (.error e))
    (hne : e ≠ .notSupported) : Possible c (.error e) := by
  obtain he | he := List.mem_append.1 he
  · exact hown e he hne
  · exact possible_transportError hc he

/-- A command that looks at the reply reports a mismatch and a refusal. -/
theorem possible_inspects (hi : InspectsReply c) (hmac : ∀ a, c ≠ .setMac a) :
    ∀ e ∈ [ErrorKind.protocolMismatch, refusalError c, .notSupported], e ≠ .notSupported →
      Possible c (.error e) := by
  simp only [List.forall_mem_cons]
  exact ⟨fun _ => possible_mismatch hi, fun _ => possible_refusal hi hmac, fun h => absurd rfl h,
    List.forall_mem_nil _⟩

theorem possible_error {e : ErrorKind} (he : e ∈ errorsOf c) (hne : e ≠ .notSupported) :
    Possible c (.error e) := by
  cases c with
  | writePosted | readPosted | exchange | setVlan | updateMc => exact possible_transportError rfl he
  | setMac a =>
    refine possible_row rfl he ?_ hne
    simp only [List.forall_mem_cons]
    exact ⟨fun _ => possible_mismatch (.inl ⟨a, rfl⟩), fun _ => possible_setMac_nacked a, List.forall_mem_nil _⟩
  | setMacvlan x a =>
    have hi : InspectsReply (.setMacvlan x a) := .inr (.inl ⟨x, a, rfl⟩)
    exact possible_row rfl he (fun e he => possible_inspects hi (by simp) e (List.mem_append_left [_] he)) hne
  | negotiateApi v =>
    have hi : InspectsReply (.negotiateApi v) := .inr (.inr (.inl ⟨v, rfl⟩))
    exact possible_row rfl he (fun e he => possible_inspects hi (by simp) e (List.mem_append_left [_] he)) hne
  | getReta =>
    exact possible_row rfl he (possible_inspects (c := .getReta) (by simp [InspectsReply]) (by simp)) hne
  | getRssKey =>
    exact possible_row rfl he (possible_inspects (c := .getRssKey) (by simp [InspectsReply]) (by simp)) hne
  | reset =>
    refine possible_row rfl he ?_ hne
    simp only [List.forall_mem_cons]
    exact ⟨fun _ => possible_reset_timeout, fun _ => possible_reset_invalidMacAddr, List.forall_mem_nil _⟩
  | checkLink =>
    have hmem : e ∈ [ErrorKind.deviceRemoved, .resetInProgress] := he
    obtain rfl | rfl : e = .deviceRemoved ∨ e = .resetInProgress := by simpa using hmem
    · exact possible_checkLink_removed
    · exact possible_checkLink_reset
  | _ => cases he

/-- Every status of a row but NotSupported can be decided. -/
theorem possible_of_allowed (hc : c.group = .command) (hst : statusAllowed c status = true)
    (hne : status ≠ .error .notSupported) : Possible c status := by
  cases status with
  | ok => exact possible_ok hc
  | error e => exact possible_error (of_decide_eq_true hst) (by simpa using hne)

end Possible

/-- A query that is not supported, offered right after handle construction (R178, R181). -/
theorem notSupported_at_reset {c : Instr} (hc : c = .getReta ∨ c = .getRssKey) :
    exec c State.reset = .next (ended State.reset State.reset.h ⟨.error .notSupported, .none⟩) := by
  obtain ⟨hno, -⟩ := queryAdmission State.reset c rfl hc
  exact hno (by decide)

/-- Settles O56: what a step decides lies in the matrix, what is decided at acceptance does too, and every status
of a row has its state. -/
theorem statusMatrix : Obligations.StatusMatrix := by
  refine ⟨fun s t f _ hsettled hf hstep hidle => ?_, fun s t c hc hs hexec hidle => ?_, fun c hc => ?_,
    fun c st => possible_of_allowed, fun s t f => step_ends_allowed⟩
  · obtain ⟨r, hr, hmatrix⟩ := endsInMatrix_step hf (settled_frame (hsettled.symm ▸ hf)) hstep hidle
    exact ⟨r, hr, hmatrix.allowed, hmatrix.supported, hmatrix.output⟩
  · refine (onlyAccepts_exec hc hs hexec hidle).imp_right fun ⟨hquery, hno, ht⟩ => ?_
    exact ⟨hquery, hno, ht, notSupported_allowed_iff.2 hquery⟩
  · exact ⟨State.reset, inv_constructed Config.defaults_ok, rfl,
      notSupported_at_reset (notSupported_allowed_iff.1 hc)⟩

end Sys2Proof.Machine
end

section
/-!
Termination (R308): how many steps of its own the running command has left at most, and that each of them
brings the command nearer to its end while the budgets are finite.
-/

namespace Sys2Proof.Machine

open Sys2Proof

/-! ## The steps that are left -/

/-- No budget is larger: the timeout is a word, and an unarmed poll takes `UNARMED_BUDGET` (R140). -/
def budgetBound (p : Config.Params) : Nat := 2 ^ 32 + p.unarmedBudget.getD 0

/-- More than the updates any end of a command is planned with: a failed READ_POSTED scrambles two buffers of
`rspLen` words, and GET_RETA writes 128 entries (R36, R144, R178). -/
def endSteps (rspLen : Nat) : Nat := 2 * rspLen + 130

/-- The steps of a READ_POSTED that begins, and what follows it: two polls, the copy, the end (R144). -/
def readSteps (p : Config.Params) (rspLen : Nat) : Nat :=
  endSteps rspLen + 3 * rspLen + 8 * budgetBound p + 16

/-- The steps left when AcquireLock has returned (R143, R144). -/
def heldSteps (p : Config.Params) (f : Frame) : Use → Nat
  | .read => endSteps f.rspLen + 3 * f.rspLen + 7
  | .post => readSteps p f.rspLen + f.reqLen + 8

/-- The steps of an operation whose request, of at most 16 words, is to be built (R146). -/
def encodeSteps (p : Config.Params) (rspLen : Nat) : Nat := readSteps p rspLen + 4 * budgetBound p + 46

/-- A bound on the steps a command makes from the point `q` on with no update pending. In a counted loop every
iteration left is worth its points, and a point before the loop counts the largest budget. -/
def pointSteps (p : Config.Params) (f : Frame) : Point → Nat
  | .run | .decode | .stopDone | .linksTest => endSteps f.rspLen
  | .readDone | .stopFlush | .linksRead => endSteps f.rspLen + 1
  | .ackFlush | .maskWrite | .indicatorTest => endSteps f.rspLen + 2
  | .ackWrite | .indicatorRead => endSteps f.rspLen + 3
  | .copyInTest => endSteps f.rspLen + 3 * (f.rspLen - f.i) + 4
  | .copyStore => endSteps f.rspLen + 3 * (f.rspLen - f.i) + 5
  | .copyIn => endSteps f.rspLen + 3 * (f.rspLen - f.i) + 6
  | .rxWrite => endSteps f.rspLen + 4 * (p.numQueues - f.i) + 3
  | .rxRead => endSteps f.rspLen + 4 * (p.numQueues - f.i) + 4
  | .txWrite => endSteps f.rspLen + 4 * (p.numQueues - f.i) + 5
  | .txRead => endSteps f.rspLen + 4 * (p.numQueues - f.i) + 6
  | .lockTest use => heldSteps p f use + 4 * f.n.getD 0 + 1
  | .lockRead use => heldSteps p f use + 4 * f.n.getD 0 + 2
  | .lockWrite use => heldSteps p f use + 4 * f.n.getD 0 + 3
  | .lockDelay use => heldSteps p f use + 4 * f.n.getD 0 + 4
  | .lockBudget use => heldSteps p f use + 4 * budgetBound p + 4
  | .pollTest => heldSteps p f .read + 4 * budgetBound p + 4 * f.n.getD 0 + 6
  | .pollRead => heldSteps p f .read + 4 * budgetBound p + 4 * f.n.getD 0 + 7
  | .pollDelay => heldSteps p f .read + 4 * budgetBound p + 4 * f.n.getD 0 + 8
  | .pollBudget => heldSteps p f .read + 8 * budgetBound p + 8
  | .readStart => readSteps p f.rspLen
  | .replySettle => readSteps p f.rspLen + 1
  | .await => readSteps p f.rspLen + 3
  | .postDone => readSteps p f.rspLen + 4
  | .postFlush => readSteps p f.rspLen + 5
  | .postReq => readSteps p f.rspLen + 6
  | .copyOut => readSteps p f.rspLen + (f.reqLen - f.i) + 7
  | .postStart => heldSteps p f .post + 4 * budgetBound p + 5
  | .encode => encodeSteps p f.rspLen
  | .hash => encodeSteps p f.rspLen + 61
  | .arm => encodeSteps p f.rspLen + 3
  | .rstTest => encodeSteps p f.rspLen + 3 * f.n.getD 0 + 4
  | .rstSample => encodeSteps p f.rspLen + 3 * f.n.getD 0 + 5
  | .rstDelay => encodeSteps p f.rspLen + 3 * f.n.getD 0 + 6
  | .settle => encodeSteps p f.rspLen + 3 * p.rstPollMax + 6
  | .ctrlFlush => encodeSteps p f.rspLen + 3 * p.rstPollMax + 7
  | .ctrlWrite => encodeSteps p f.rspLen + 3 * p.rstPollMax + 8

/-- A bound on the steps a command makes: the updates pending, and what follows if none of them is the end. -/
def frameSteps (p : Config.Params) (f : Frame) : Nat :=
  f.todo.length + if f.todo.any Prim.isEnd then 0 else pointSteps p f f.point

/-- The measure of R308. -/
def stepsLeft (s : State) : Nat :=
  match s.seq with
  | .idle => 0
  | .busy f => frameSteps s.cfg f

theorem stepsLeft_busy {s : State} {f : Frame} (hs : s.seq = .busy f) :
    stepsLeft s = frameSteps s.cfg f := by simp only [stepsLeft, hs]

theorem frameSteps_rest {p : Config.Params} {f : Frame} (hf : f.todo = []) :
    frameSteps p f = pointSteps p f f.point := by simp [frameSteps, hf]

theorem endSteps_le (p : Config.Params) (f : Frame) (q : Point) : endSteps f.rspLen ≤ pointSteps p f q := by
  cases q with
  | lockBudget use | lockWrite use | lockRead use | lockTest use | lockDelay use =>
    cases use <;> simp only [pointSteps, heldSteps, readSteps] <;> omega
  | _ => simp only [pointSteps, heldSteps, encodeSteps, readSteps]; omega

/-! ## Progress -/

/-- The loop the frame stands in, if it stands in one, has a count. -/
def Frame.Counted (f : Frame) : Prop := isLoopPoint f.point = true → f.n ≠ none

/-- The command of `f` has ended, or has fewer steps left and no loop without a count. -/
def Progress (p : Config.Params) (f : Frame) (t : State) : Prop :=
  t.seq = .idle ∨ ∃ g, t.seq = .busy g ∧ g.cmd = f.cmd ∧ g.Counted ∧ frameSteps p g < frameSteps p f

/-- A pending update ends the command or leaves its position alone, with one update less pending (R35). -/
theorem runNext_advances (p : Config.Params) {s : State} {f : Frame} (hs : s.seq = .busy f) (ht : f.todo ≠ []) :
    (runNext s).seq = .idle ∨ ∃ g, (runNext s).seq = .busy g ∧ g.cmd = f.cmd ∧
      (f.Counted → g.Counted) ∧ frameSteps p g < frameSteps p f := by
  cases hps : f.todo with
  | nil => exact absurd hps ht
  | cons q qs =>
    rw [runNext_cons hs hps]
    cases hq : q.isEnd with
    | true => exact .inl ((runPrim_idle (plan_seq qs f s)).2 hq)
    | false =>
      obtain ⟨r, hr⟩ := runPrim_busy (plan_seq qs f s) hq
      refine .inr ⟨_, hr, rfl, id, ?_⟩
      have hsame : pointSteps p { f with todo := qs, req := r } f.point = pointSteps p f f.point := by
        cases f.point <;> rfl
      simp only [frameSteps, hps, List.any_cons, hq, Bool.false_or, List.length_cons, hsame]
      omega

/-- The first of the planned updates is made at once (R35). -/
theorem Progress.runNext {p : Config.Params} {f : Frame} {u : State} (h : Progress p f u) :
    Progress p f (runNext u) := by
  obtain hi | ⟨g, hg, hc, hn, hlt⟩ := h
  · rw [runNext_settled fun f hf => by rw [hi] at hf; cases hf]
    exact .inl hi
  · by_cases ht : g.todo = []
    · rw [runNext_settled fun f hf => by rw [hg] at hf; cases hf; exact ht]
      exact .inr ⟨g, hg, hc, hn, hlt⟩
    · obtain hi | ⟨g', hg', hc', hn', hlt'⟩ := runNext_advances p hg ht
      · exact .inl hi
      · exact .inr ⟨g', hg', hc'.trans hc, hn' hn, hlt'.trans hlt⟩

theorem Progress.perform {p : Config.Params} {f g : Frame} {u : State} {ps : List Prim}
    (h : Progress p f (plan ps g u)) : Progress p f (perform ps g u) := by
  rw [perform_eq_runNext]; exact h.runNext

section Steps

variable {p : Config.Params} {s t u : State} {f g : Frame} {q : Point} {ps : List Prim}

/-- Updates the last of which ends the command. -/
theorem progress_ends (hf : f.todo = []) (hn : f.Counted) (hlen : ps.length < endSteps f.rspLen)
    (he : ∃ r ∈ ps, r.isEnd = true) : Progress p f (plan ps f u) := by
  refine .inr ⟨_, rfl, rfl, hn, ?_⟩
  rw [frameSteps_rest hf]
  simpa [frameSteps, List.any_eq_true.2 he] using hlen.trans_le (endSteps_le p f f.point)

/-- Updates that end nothing, planned on the way to another point. -/
theorem progress_continues (hf : f.todo = []) (hq : f.point = q) (hc : g.cmd = f.cmd) (hn : g.Counted)
    (hlt : ps.length + pointSteps p g g.point < pointSteps p f q) : Progress p f (plan ps g u) := by
  subst hq
  refine .inr ⟨_, rfl, hc, hn, ?_⟩
  have hsame : pointSteps p { g with todo := ps } g.point = pointSteps p g g.point := by
    cases g.point <;> rfl
  rw [frameSteps_rest hf]
  simp only [frameSteps, hsame]
  split <;> omega

/-- A move to a point with fewer steps left. -/
theorem progress_counts (hf : f.todo = []) (hq : f.point = q) (hn : g.Counted)
    (hlt : pointSteps p g g.point < pointSteps p f q := by
      simp only [pointSteps, heldSteps, Option.getD_some]; omega)
    (hc : g.cmd = f.cmd := by rfl) (ht : g.todo = f.todo := by rfl) : Progress p f (u.setFrame g) := by
  subst hq
  refine .inr ⟨g, rfl, hc, hn, ?_⟩
  rwa [frameSteps_rest hf, frameSteps_rest (ht.trans hf)]

/-- A move to a point with fewer steps left that keeps the count: it stays in its loop, or leaves it. -/
theorem progress_moves (hf : f.todo = []) (hn : f.Counted) (hq : f.point = q)
    (hl : isLoopPoint g.point = true → isLoopPoint q = true := by simp [isLoopPoint])
    (hlt : pointSteps p g g.point < pointSteps p f q := by
      simp only [pointSteps, heldSteps, encodeSteps, readSteps]; omega)
    (hc : g.cmd = f.cmd := by rfl)
    (ht : g.todo = f.todo := by rfl) (hgn : g.n = f.n := by rfl) : Progress p f (u.setFrame g) :=
  progress_counts hf hq (fun hg => hgn ▸ hn (hq ▸ hl hg)) hlt hc ht

/-! ## The transport (R141 to R144) -/

theorem raiseSteps_length (f : Frame) (use : Use) (e : ErrorKind) :
    (raiseSteps f use e).length < endSteps f.rspLen := by
  have hclean : (transportCleanUp f).length ≤ 2 := by unfold transportCleanUp; split <;> simp
  have hmsg : (scrambleMsg f).length ≤ f.rspLen := by unfold scrambleMsg; split <;> simp
  cases use <;> simp only [raiseSteps, scrambleBuffer, endSteps, List.length_append, List.length_map,
    List.length_range, List.length_singleton] <;> omega

theorem progress_raise (hf : f.todo = []) (hn : f.Counted) (use : Use) (e : ErrorKind) :
    Progress p f (transportRaise f use e u) := by
  refine progress_ends hf hn (raiseSteps_length f use e) ⟨raise e, ?_, rfl⟩
  obtain ⟨qs, hqs, -⟩ := raiseSteps_last f use e
  simp [hqs]

theorem progress_removalTest (hf : f.todo = []) (hn : f.Counted) (use : Use) {goOn : State → State}
    (h : Progress p f (goOn s)) : Progress p f (removalTest f use goOn s) := by
  unfold removalTest
  split
  · exact progress_raise hf hn use _
  · exact h

/-- An iteration of a poll ends it, or leaves one iteration less (R141, R142). -/
theorem progress_pollTests (hf : f.todo = []) (hn : f.Counted) (hl : isLoopPoint f.point = true) (use : Use)
    (awaited : Bool) {onSuccess : State → State} (h : Progress p f (onSuccess s)) (again : Point)
    (hlt : ∀ k, f.n = some (k + 2) →
      pointSteps p { f with n := some (k + 1), point := again } again < pointSteps p f f.point) :
    Progress p f (pollTests f use awaited onSuccess again s) := by
  obtain ⟨e, -, heq⟩ | ⟨_, _, _, heq⟩ | ⟨hnone, -⟩ | ⟨k, hk, heq⟩ :=
    pollTests_cases f use awaited onSuccess again s
  · rw [heq]; exact progress_raise hf hn use e
  · rw [heq]; exact h
  · exact absurd hnone (hn hl)
  · rw [heq]; exact progress_counts hf rfl (fun _ => by simp) (hlt k hk)

theorem progress_afterLock (hf : f.todo = []) {use : Use} (hq : f.point = .lockTest use) :
    Progress p f (afterLock f use s) := by
  cases use <;> exact progress_counts hf hq (by rintro ⟨⟩)

theorem progress_afterPost (hf : f.todo = []) (hn : f.Counted) (hq : f.point = .postDone) :
    Progress p f (afterPost f s) := by
  unfold afterPost
  split
  · exact progress_ends hf hn (by simp [endSteps]) ⟨_, List.mem_singleton_self _, rfl⟩
  · exact progress_moves hf hn hq
  · exact progress_moves hf hn hq

theorem progress_afterRead (hf : f.todo = []) (hn : f.Counted) (hq : f.point = .readDone) :
    Progress p f (afterRead f s) := by
  unfold afterRead
  split
  · exact progress_ends hf hn (by simp [endSteps]) ⟨_, List.mem_singleton_self _, rfl⟩
  · exact progress_ends hf hn (by simp [endSteps]) ⟨_, List.mem_singleton_self _, rfl⟩
  · exact progress_moves hf hn hq

theorem budget_le (p : Config.Params) (timeout : Word) :
    (budget p.unarmedBudget timeout).getD 0 ≤ budgetBound p := by
  have := timeout.isLt
  unfold budget budgetBound
  split
  · omega
  · rw [Option.getD_some]; omega

/-- A command that exchanges messages polls with a count: it is the transport's own and the premise gives
one, or its timeout is armed (R140, R149, R297, R308). -/
theorem Running.budget_ne_none (h : Running s f) (hfin : FiniteBudgets s) {use : Use}
    (hside : onSide use f.point = true) : budget s.cfg.unarmedBudget s.h.mbxTimeout ≠ none := by
  have armed (ha : s.h.mbxTimeout = s.cfg.mbxInitTimeout) : s.h.mbxTimeout ≠ 0#32 :=
    ha ▸ h.inv.params.mbxInitTimeout
  have huses : usesTransport f.cmd = true :=
    usesTransport_of_runsSide (pointOf_onSide hside f.cmd ▸ h.point)
  have hfinite : s.h.mbxTimeout ≠ 0#32 ∨ s.cfg.unarmedBudget ≠ none := by
    simp only [usesTransport, Bool.or_eq_true, decide_eq_true_eq] at huses
    obtain (hop | hraw) | hreset := huses
    · exact .inl (armed (h.control.armed (.inl (h.control.operation f h.seq hop))))
    · exact (hfin f h.seq).2 hraw
    · exact .inl (armed (h.armed hreset (afterArm_of_onSide hside)))
  unfold budget
  split
  · rename_i hzero
    exact hfinite.resolve_left fun hne => hne hzero
  · simp

/-- A poll of a command that exchanges messages starts with a count no larger than the bound (R140). -/
theorem Running.progress_startPoll (h : Running s f) (hfin : FiniteBudgets s) {use : Use}
    (hside : onSide use f.point = true) {first : Point}
    (hlt : ∀ n : Option Nat, n.getD 0 ≤ budgetBound s.cfg →
      pointSteps s.cfg { f with n := n, point := first } first < pointSteps s.cfg f f.point) :
    Progress s.cfg f (startPoll f first s) :=
  progress_counts h.todo rfl (fun _ => h.budget_ne_none hfin hside) (hlt _ (budget_le _ _))

/-- The longest request is a multicast update of 30 vectors: 16 words (R100, R112). -/
theorem encode_length_le {c : Config.Codes} {r : Instr} (hg : r.group = .request)
    (hw : r.wellFormed p = true) : (encode c r).length ≤ 16 := by
  cases r with
  | setMulticastReq vectors =>
    have hlen : vectors.length ≤ 30 := of_decide_eq_true hw
    simp only [encode, List.length_cons, pack16_length, List.length_map, halfUp]
    omega
  | setMacvlanReq index addr => simp only [encode]; split <;> simp
  | resetReq | setMacReq | setVlanReq | apiNegotiateReq | getRetaReq | getRssKeyReq => simp [encode]
  | _ => cases hg

theorem msgWrites_length (r : Instr) (ws : List Word) : (msgWrites r ws).length = ws.length := by
  have hfrom : ∀ (vs : List Word) (k : Nat), (writesFrom k vs).length = vs.length := by
    intro vs
    induction vs with
    | nil => exact fun _ => rfl
    | cons v vs ih => exact fun k => congrArg (· + 1) (ih (k + 1))
  unfold msgWrites
  split
  · rw [List.length_append, hfrom, hfrom, List.length_drop, List.length_take]; omega
  · exact hfrom _ _

theorem Running.progress_stageRequest (h : Running s f) (hq : f.point = .encode) {r : Instr}
    (hr : f.req = some r) : Progress s.cfg f (Machine.stageRequest r f s) := by
  obtain ⟨-, -, hreq, -⟩ := (f.ok_iff s.cfg).1 (h.control.frame f h.seq)
  obtain ⟨hg, hw⟩ := hreq r hr
  have hlen : (encode s.cfg.codes r).length ≤ 16 := encode_length_le hg hw
  refine Progress.perform (progress_continues h.todo hq rfl (fun hl => by cases hl) ?_)
  simp only [msgWrites_length, pointSteps, heldSteps, encodeSteps]
  omega

theorem isLoopPoint_lockTest (use : Use) : isLoopPoint (.lockTest use) = true := by cases use <;> rfl

/-- Every step of the transport is progress. -/
theorem Running.progress_transportStep (h : Running s f) (hfin : FiniteBudgets s)
    (ht : Machine.transportStep f s = .next t) : Progress s.cfg f t := by
  have hf := h.todo
  have hn : f.Counted := (hfin f h.seq).1
  unfold Machine.transportStep at ht
  split at ht
  · rename_i hq
    split at ht <;> cases ht
    rename_i hr
    exact h.progress_stageRequest hq hr
  all_goals cases ht
  all_goals rename_i hq
  · exact progress_removalTest hf hn _ (progress_moves hf hn hq)
  · exact h.progress_startPoll hfin (hq ▸ onSide_lockBudget _) fun n hb => by
      simp only [hq, pointSteps, heldSteps]; omega
  · exact progress_moves hf hn hq
  · exact progress_moves hf hn hq
  · exact progress_pollTests hf hn (hq ▸ isLoopPoint_lockTest _) _ _ (progress_afterLock hf hq) _
      fun k hk => by simp only [hq, hk, pointSteps, heldSteps, Option.getD_some]; omega
  · exact progress_moves hf hn hq
  · split <;> exact progress_moves hf hn hq
  · exact progress_moves hf hn hq
  · exact progress_moves hf hn hq
  · exact progress_removalTest hf hn _ (progress_afterPost hf hn hq)
  · exact progress_removalTest hf hn _ (progress_moves hf hn hq)
  · exact h.progress_startPoll hfin (use := .read) (hq ▸ rfl) fun n hb => by
      simp only [hq, pointSteps, heldSteps]; omega
  · exact progress_moves hf hn hq
  · exact progress_pollTests hf hn (hq ▸ rfl) _ _ (progress_moves hf hn hq) _
      fun k hk => by simp only [hq, hk, pointSteps, heldSteps, Option.getD_some]; omega
  · exact progress_moves hf hn hq
  · exact progress_moves hf hn hq
  · exact progress_moves hf hn hq
  · refine progress_removalTest hf hn _ ?_
    split <;> exact progress_moves hf hn hq
  · exact progress_moves hf hn hq
  · exact progress_moves hf hn hq
  · exact progress_removalTest hf hn _ (progress_afterRead hf hn hq)

/-! ## The decoders (R124, R182) -/

/-- A `return` or `raise` behind other updates ends the command. -/
theorem progress_plan (hf : f.todo = []) (hn : f.Counted) {qs : List Prim} {r : Prim}
    (hr : r.isEnd = true := by rfl) (hlen : qs.length ≤ 128 := by simp) :
    Progress p f (plan (qs ++ [r]) f u) := by
  refine progress_ends hf hn ?_ ⟨r, by simp, hr⟩
  simp only [endSteps, List.length_append, List.length_singleton]
  omega

theorem retaWrites_length (k : Nat) (es : List (BitVec 2)) : (retaWrites k es).length = es.length := by
  induction es generalizing k with
  | nil => rfl
  | cons e es ih => exact congrArg (· + 1) (ih (k + 1))

/-- Every decoder plans the end of its command. -/
theorem progress_interpretReply (hf : f.todo = []) (hn : f.Counted) {ws : List Word}
    (h : interpretReply f ws s = .next t) : Progress p f t := by
  unfold interpretReply at h
  split at h <;> cases h
  · unfold decodeReset
    split
    · exact progress_plan hf hn (qs := [_, _, _, _])
    · exact progress_plan hf hn (qs := [_, _])
    · exact progress_plan hf hn (qs := [_, _])
  · unfold decodeSetMac
    split
    · exact progress_plan hf hn (qs := [_])
    · exact progress_plan hf hn (qs := [_])
    · exact progress_plan hf hn (qs := [])
  · exact progress_plan hf hn (qs := [])
  · exact progress_plan hf hn (qs := [])
  · unfold decodeSetMacvlan
    split <;> exact progress_plan hf hn (qs := [])
  · unfold decodeGetReta
    split
    · exact progress_plan hf hn (qs := [])
    · exact progress_plan hf hn (hlen := by
        rw [retaWrites_length, retaOf, length_flatMap_chunks retaEntriesOf_length, payloadWords_length]
        decide)
    · exact progress_plan hf hn (qs := [])
  · unfold decodeGetRssKey
    split
    · exact progress_plan hf hn (qs := [])
    · exact progress_plan hf hn (qs := [_])
    · exact progress_plan hf hn (qs := [])
  · unfold decodeNegotiate
    split
    · exact progress_plan hf hn (qs := [])
    · exact progress_plan hf hn (qs := [_])
    · exact progress_plan hf hn (qs := [])

/-- An operation interprets the reply in `MSG`, or runs the transport (R146). -/
theorem Running.progress_operation (h : Running s f) (hfin : FiniteBudgets s)
    {interpret : Frame → List Word → State → State}
    (hi : Machine.interpretReply f s.msg s = .next (interpret f s.msg s))
    (ht : Machine.operation interpret f s = .next t) : Progress s.cfg f t := by
  by_cases hdec : f.point = .decode
  · rw [operation_decode hdec, ← hi] at ht
    exact progress_interpretReply h.todo (hfin f h.seq).1 ht
  · rw [operation_transport hdec] at ht
    exact h.progress_transportStep hfin ht

/-! ## The other commands -/

theorem progress_stopStep (hf : f.todo = []) (hn : f.Counted) (h : stopStep f s = .next t) :
    Progress s.cfg f t := by
  unfold stopStep at h
  split at h <;> cases h <;> rename_i hq
  · exact progress_moves hf hn hq
  · exact progress_moves hf hn hq
  · exact progress_moves hf hn hq
  · unfold stopNext
    split <;> exact progress_moves hf hn hq
  · exact progress_moves hf hn hq
  · exact progress_moves hf hn hq
  · exact .perform (progress_plan hf hn (qs := [_, _]))

/-- A test of RESET's indicator loop leaves the loop, or leaves one sample less (R214). -/
theorem progress_resetTests (hf : f.todo = []) (hn : f.Counted) (hq : f.point = .rstTest) :
    Progress p f (resetTests f s) := by
  have fails (e : ErrorKind) : Progress p f (resetFails f e s) := progress_plan hf hn (qs := [_, _])
  unfold resetTests
  split
  · exact fails _
  · split
    · exact progress_moves hf hn hq
    · split
      · rename_i hnone
        exact absurd hnone (hn (hq ▸ rfl))
      · rename_i k hk
        split
        · exact fails _
        · exact progress_counts hf hq (fun _ => by simp)
            (by simp only [pointSteps, hk, Option.getD_some]; omega)

theorem Running.progress_resetStep (h : Running s f) (hfin : FiniteBudgets s) (hc : f.cmd = .reset)
    (ht : Machine.resetStep f s = .next t) : Progress s.cfg f t := by
  have hf := h.todo
  have hn : f.Counted := (hfin f h.seq).1
  unfold Machine.resetStep at ht
  split at ht
  case h_10 =>
    exact progress_interpretReply hf hn (ws := s.msg) (by simpa only [Machine.interpretReply, hc] using ht)
  case h_11 => exact h.progress_transportStep hfin ht
  all_goals cases ht
  all_goals rename_i hq
  · exact progress_moves hf hn hq
  · exact progress_moves hf hn hq
  · exact progress_counts hf hq fun _ => by simp
  · exact progress_moves hf hn hq
  · exact progress_resetTests hf hn hq
  · exact progress_moves hf hn hq
  · exact .perform (progress_continues hf hq rfl (fun hl => by cases hl)
      (by simp only [pointSteps, List.length_cons, List.length_nil]; omega))
  · exact .perform (progress_continues hf hq rfl (fun hl => by cases hl)
      (by simp only [pointSteps, List.length_cons, List.length_nil]; omega))
  · exact progress_moves hf hn hq

theorem progress_startStep (hf : f.todo = []) (hn : f.Counted) (h : startStep f s = .next t) :
    Progress p f t := by
  unfold startStep at h
  split at h <;> cases h
  exact .perform (progress_plan hf hn (qs := [_]))

theorem progress_initStep (hf : f.todo = []) (hn : f.Counted) (h : initStep f s = .next t) :
    Progress p f t := by
  unfold initStep at h
  split at h <;> cases h
  exact .perform (progress_plan hf hn (qs := [_, _]))

theorem progress_readHandleStep (hf : f.todo = []) (hn : f.Counted) {field : HandleField}
    (h : readHandleStep field f s = .next t) : Progress p f t := by
  unfold readHandleStep at h
  split at h
  · split at h <;> cases h <;> exact .perform (progress_plan hf hn (qs := []))
  · cases h

theorem diagnose_length (filterType : Word) : (diagnose filterType).length ≤ 1 := by
  unfold diagnose; split <;> simp

theorem progress_mtaVectorStep (hf : f.todo = []) (hn : f.Counted) {addr : MacAddr} {filterType : Word}
    (h : mtaVectorStep addr filterType f s = .next t) : Progress p f t := by
  unfold mtaVectorStep at h
  split at h <;> cases h
  exact .perform (progress_plan hf hn (hlen := (diagnose_length filterType).trans (by decide)))

/-- At most 30 addresses are hashed, each with one diagnostic at most (R176). -/
theorem hashSteps_length (list : List MacAddr) (filterType : Word) :
    (hashSteps list filterType).length ≤ 60 := by
  have hdiag := diagnose_length filterType
  have hstep : ∀ as : List MacAddr,
      (as.flatMap fun a => diagnose filterType ++ [Prim.hash (mtaWindow a filterType)]).length
        ≤ 2 * as.length := by
    intro as
    induction as with
    | nil => exact Nat.le_refl 0
    | cons a as ih =>
      simp only [List.flatMap_cons, List.length_append, List.length_cons, List.length_nil] at ih ⊢
      omega
  have htake : (list.take Config.mcMax).length ≤ 30 := List.length_take_le _ _
  exact (hstep _).trans (by omega)

theorem Running.progress_updateMcStep (h : Running s f) (hfin : FiniteBudgets s) {list : List MacAddr}
    (hc : f.cmd = .updateMc list) (ht : Machine.updateMcStep list f s = .next t) : Progress s.cfg f t := by
  unfold Machine.updateMcStep at ht
  split at ht
  · rename_i hq
    cases ht
    have hlen := hashSteps_length list s.h.mcFilterType
    exact progress_continues h.todo hq rfl (fun hl => by cases hl) (by simp only [pointSteps]; omega)
  · exact h.progress_operation hfin (by simp only [Machine.interpretReply, hc]) ht

theorem progress_checkLinkStep (hf : f.todo = []) (hn : f.Counted) (h : checkLinkStep f s = .next t) :
    Progress p f t := by
  have fails (e : ErrorKind) : Progress p f (plan (linkError e) f s) := progress_plan hf hn (qs := [_, _])
  unfold checkLinkStep at h
  split at h <;> cases h <;> rename_i hq
  · exact progress_moves hf hn hq
  · split
    · exact fails _
    · split
      · exact fails _
      · exact progress_moves hf hn hq
  · exact progress_moves hf hn hq
  · split
    · exact fails _
    · exact progress_plan hf hn (qs := [_, _])

theorem progress_checkForRstStep (hf : f.todo = []) (hn : f.Counted) (h : checkForRstStep f s = .next t) :
    Progress p f t := by
  unfold checkForRstStep at h
  split at h <;> cases h <;> rename_i hq
  · exact progress_moves hf hn hq
  · exact .perform (progress_plan hf hn (qs := []))

/-! ## The block's step -/

/-- The execution of the running command's own next step. -/
theorem Running.progress_command (h : Running s f) {i : Instr} (hc : f.cmd = i) {offer : State → State}
    {body : Frame → State → Outcome} (ht : command i offer body s = .next t)
    (hb : body f s = .next t → Progress s.cfg f t) : Progress s.cfg f t := by
  rw [command_running h.seq hc h.todo] at ht
  exact hb ht

theorem Running.progress_exec (h : Running s f) (hfin : FiniteBudgets s) {c : Instr} (hc : f.cmd = c)
    (ht : exec c s = .next t) : Progress s.cfg f t := by
  have hf := h.todo
  have hn : f.Counted := (hfin f h.seq).1
  have hgroup : c.group = .command := hc ▸ group_of_pointOf h.point
  cases c with
  | stop => exact h.progress_command hc ht (progress_stopStep hf hn)
  | reset =>
    exact h.progress_command hc (show execReset s = _ from ht) (h.progress_resetStep hfin hc)
  | start => exact h.progress_command hc ht (progress_startStep hf hn)
  | init => exact h.progress_command hc ht (progress_initStep hf hn)
  | mtaVector => exact h.progress_command hc ht (progress_mtaVectorStep hf hn)
  | readHandle => exact h.progress_command hc ht (progress_readHandleStep hf hn)
  | checkLink => exact h.progress_command hc ht (progress_checkLinkStep hf hn)
  | checkForRst mailboxId =>
    exact h.progress_command hc (show execCheckForRst mailboxId s = _ from ht)
      (progress_checkForRstStep hf hn)
  | setMac | setVlan | getReta | getRssKey | negotiateApi =>
    exact h.progress_command hc ht
      (h.progress_operation hfin (by simp only [Machine.interpretReply, hc]))
  | setMacvlan index addr =>
    exact h.progress_command hc (show execSetMacvlan index addr s = _ from ht)
      (h.progress_operation hfin (by simp only [Machine.interpretReply, hc]))
  | updateMc => exact h.progress_command hc ht (h.progress_updateMcStep hfin hc)
  | writePosted msg len mailboxId =>
    exact h.progress_command hc (show execWritePosted msg len mailboxId s = _ from ht)
      (h.progress_transportStep hfin)
  | readPosted len mailboxId =>
    exact h.progress_command hc (show execReadPosted len mailboxId s = _ from ht)
      (h.progress_transportStep hfin)
  | exchange reqLen rspLen =>
    exact h.progress_command hc (show execExchange reqLen rspLen s = _ from ht)
      (h.progress_transportStep hfin)
  | _ => cases hgroup

/-- At the encode point the request is the current instruction (R102). -/
theorem currentInstr_encode (hs : s.seq = .busy f) (hf : f.todo = []) (hq : f.point = .encode) {r : Instr}
    (hr : f.req = some r) : currentInstr s = some r := by
  simp [currentInstr, hs, hf, hq, hr]

/-- The request a command builds is staged (R102). -/
theorem requestStep_encode (hs : s.seq = .busy f) (hf : f.todo = []) (hq : f.point = .encode) {r : Instr}
    (hr : f.req = some r) : requestStep r s = .next (Machine.stageRequest r f s) := by
  simp [requestStep, hs, hf, hq, hr]

/-- Away from the points where it builds or interprets a message the command is the current instruction. -/
theorem currentInstr_command (hs : s.seq = .busy f) (hf : f.todo = []) (henc : f.point ≠ .encode)
    (hdec : f.point ≠ .decode) : currentInstr s = some f.cmd := by
  simp only [currentInstr, hs, hf, if_true]

/-- The current instruction of a running command with nothing pending is the request it builds, a reply it
interprets, or itself (R35, R77). -/
theorem Running.currentInstr_cases (h : Running s f) :
    (∃ r, f.point = .encode ∧ f.req = some r ∧ r.group = .request ∧ currentInstr s = some r) ∨
    (∃ r, f.point = .decode ∧ r.group = .reply ∧ currentInstr s = some r) ∨
    currentInstr s = some f.cmd := by
  by_cases henc : f.point = .encode
  · obtain ⟨r, hr⟩ := h.request henc
    obtain ⟨-, -, hreq, -⟩ := (f.ok_iff s.cfg).1 (h.control.frame f h.seq)
    exact .inl ⟨r, henc, hr, (hreq r hr).1, currentInstr_encode h.seq h.todo henc hr⟩
  by_cases hdec : f.point = .decode
  · cases hd : decode s.cfg.codes s.msg with
    | error e => exact .inr (.inr (currentInstr_decode_error h.seq hdec h.todo hd))
    | ok d =>
      by_cases hg : d.1.group = .reply
      · exact .inr (.inl ⟨d.1, hdec, hg, currentInstr_decode_reply h.seq hdec h.todo hd hg⟩)
      · exact .inr (.inr (currentInstr_decode_other h.seq hdec h.todo hd hg))
  · exact .inr (.inr (currentInstr_command h.seq h.todo henc hdec))

/-- The execution of the current instruction with nothing pending is progress. -/
theorem Running.progress_current (h : Running s f) (hfin : FiniteBudgets s) {i : Instr}
    (hi : currentInstr s = some i) (ht : exec i s = .next t) : Progress s.cfg f t := by
  obtain ⟨r, hq, hr, hg, hcur⟩ | ⟨r, hq, hg, hcur⟩ | hcur := h.currentInstr_cases <;>
    obtain rfl := Option.some.inj (hi.symm.trans hcur)
  · rw [exec_request hg, requestStep_encode h.seq h.todo hq hr] at ht
    cases ht
    exact h.progress_stageRequest hq hr
  · rw [exec_reply hg, replyStep_at ⟨h.seq, rfl, hq, h.todo⟩] at ht
    exact progress_interpretReply h.todo (hfin f h.seq).1 ht
  · exact h.progress_exec hfin rfl ht

/-- Every execution of the current instruction ends the running command or brings it nearer to its end. -/
theorem progress_busy (hinv : Inv s) (hfin : FiniteBudgets s) (hs : s.seq = .busy f) {i : Instr}
    (hi : currentInstr s = some i) (ht : exec i s = .next t) : Progress s.cfg f t := by
  by_cases hf : f.todo = []
  · exact Running.progress_current ⟨hinv, hs, hf⟩ hfin hi ht
  · rw [currentInstr_pending hs hf] at hi
    cases hi
    rw [exec_pending hs hf (group_of_pointOf (hinv.pending f hs).1)] at ht
    cases ht
    obtain hidle | ⟨g, hg, hc, hn, hlt⟩ := runNext_advances s.cfg hs hf
    · exact .inl hidle
    · exact .inr ⟨g, hg, hc, hn (hfin f hs).1, hlt⟩

/-- A move of the block executes its current instruction (R6). -/
theorem step_blockMoves (hs : s.seq = .busy f) (hb : BlockMoves s) :
    ∃ i, currentInstr (nextMove s).2 = some i ∧ step s = exec i (nextMove s).2 := by
  have hcur : ∃ i, currentInstr (nextMove s).2 = some i := by
    simp only [currentInstr, nextMove_seq, hs]
    repeat' split
    all_goals exact ⟨_, rfl⟩
  obtain ⟨i, hi⟩ := hcur
  exact ⟨i, hi, by simp only [step, show (nextMove s).1 = .vf from hb, hi]⟩

/-- A step of a running command that is not the block's move leaves the command where it is (R6). -/
theorem step_otherMoves (hs : s.seq = .busy f) (hb : ¬ BlockMoves s) (h : step s = .next t) :
    Quiet s t ∧ t.seq = .busy f := by
  have hseq := (nextMove_seq s).trans hs
  obtain ⟨_, -, ⟨hvf, -⟩ | ⟨-, hidle⟩⟩ | ⟨hq, ht⟩ := step_cases h
  · exact absurd hvf hb
  · rw [hseq] at hidle; cases hidle
  · exact ⟨(quiet_nextMove s).trans hq, ht.trans hseq⟩

/-! ## The premise is kept (R308) -/

/-- No command of the transport's own writes the timeout (R29). -/
theorem step_mbxTimeout (hinv : Inv s) (hs : s.seq = .busy f) (hc : isTransport f.cmd = true)
    (h : step s = .next t) : t.h.mbxTimeout = s.h.mbxTimeout := by
  by_contra hne
  obtain ⟨-, -, -, hwriter, -⟩ := handleRegisterWriters s t hinv.pending h
  obtain ⟨g, hg, hreset⟩ := hwriter hne
  rw [hs] at hg
  cases hg
  rw [hreset] at hc
  cases hc

/-- A step that leaves the command running, and its loop counted, keeps the premise. -/
theorem finiteBudgets_step (hinv : Inv s) (hfin : FiniteBudgets s) (hs : s.seq = .busy f)
    (h : step s = .next t) (ht : t.seq = .busy g) (hc : g.cmd = f.cmd) (hn : g.Counted) :
    FiniteBudgets t := by
  obtain ⟨-, -, -, hcfg, -⟩ := stickyMarksStay s t h
  intro g' hg'
  rw [ht] at hg'
  cases hg'
  refine ⟨hn, fun hraw => ?_⟩
  rw [hc] at hraw
  rw [step_mbxTimeout hinv hs hraw h, hcfg]
  exact (hfin f hs).2 hraw

end Steps

/-! ## Acceptance (R140, R308) -/

/-- A command that runs in `t` stands outside its loops. -/
def OutsideLoops (t : State) : Prop := ∀ f, t.seq = .busy f → isLoopPoint f.point = false

section Admission

variable {c : Instr} {s t : State} {g : Frame}

theorem outsideLoops_idle (hs : t.seq = .idle) : OutsideLoops t := fun f hf => by
  rw [hs] at hf; cases hf

theorem outsideLoops_accept (hg : isLoopPoint g.point = false := by rfl) : OutsideLoops (accept g s) := by
  rintro f ⟨⟩; exact hg

theorem outsideLoops_if (hs : s.seq = .idle) (q : Prop) [Decidable q] (h : OutsideLoops t) :
    OutsideLoops (if q then t else refuse s) := by
  split
  · exact h
  · exact outsideLoops_idle hs

theorem outsideLoops_admitReady (hs : s.seq = .idle) (hg : isLoopPoint g.point = false := by rfl) :
    OutsideLoops (admitReady g s) := outsideLoops_if hs _ (outsideLoops_accept hg)

theorem outsideLoops_admitQuery (hs : s.seq = .idle) (hg : isLoopPoint g.point = false := by rfl) :
    OutsideLoops (admitQuery g s) := by
  unfold admitQuery
  split
  · exact outsideLoops_admitReady hs hg
  · exact outsideLoops_idle rfl

theorem outsideLoops_command {offer : State → State} {body : Frame → State → Outcome} (hs : s.seq = .idle)
    (h : command c offer body s = .next t) (ho : OutsideLoops (offer s)) : OutsideLoops t := by
  rw [command_idle hs] at h
  cases h
  exact ho

theorem outsideLoops_requestStep (hs : s.seq = .idle) (h : requestStep c s = .next t) : OutsideLoops t := by
  simp only [requestStep, hs] at h
  cases h
  exact outsideLoops_idle hs

theorem outsideLoops_replyStep (hs : s.seq = .idle) (h : replyStep c s = .next t) : OutsideLoops t := by
  simp only [replyStep, hs] at h
  cases h
  exact outsideLoops_idle hs

/-- Every instruction offered to an idle block. -/
theorem outsideLoops_exec (hs : s.seq = .idle) (h : exec c s = .next t) : OutsideLoops t := by
  cases c with
  | resetReq | setMacReq | setVlanReq | setMulticastReq | setMacvlanReq | apiNegotiateReq | getRetaReq
  | getRssKeyReq =>
    exact outsideLoops_requestStep hs h
  | resetAck | setMacAck | setMacNack | apiNegotiateAck | apiNegotiateNack | setMacvlanAck
  | setMacvlanNack | getRetaSuccess | getRetaFailure | getRssKeySuccess | getRssKeyFailure | setVlanAck
  | setVlanNack | setMulticastAck | setMulticastNack =>
    exact outsideLoops_replyStep hs h
  | stop =>
    refine outsideLoops_command hs h (outsideLoops_accept ?_)
    unfold stopNext
    split <;> rfl
  | start | init | mtaVector | readHandle | checkLink => exact outsideLoops_command hs h outsideLoops_accept
  | setMac | setVlan | updateMc | negotiateApi => exact outsideLoops_command hs h (outsideLoops_admitReady hs)
  | getReta | getRssKey => exact outsideLoops_command hs h (outsideLoops_admitQuery hs)
  | reset =>
    exact outsideLoops_command hs (show execReset s = _ from h) (outsideLoops_if hs _ outsideLoops_accept)
  | setMacvlan index addr =>
    exact outsideLoops_command hs (show execSetMacvlan index addr s = _ from h)
      (outsideLoops_if hs _ (outsideLoops_admitReady hs))
  | checkForRst mailboxId =>
    exact outsideLoops_command hs (show execCheckForRst mailboxId s = _ from h)
      (outsideLoops_if hs _ outsideLoops_accept)
  | writePosted msg len mailboxId =>
    exact outsideLoops_command hs (show execWritePosted msg len mailboxId s = _ from h)
      (outsideLoops_if hs _ outsideLoops_accept)
  | readPosted len mailboxId =>
    exact outsideLoops_command hs (show execReadPosted len mailboxId s = _ from h)
      (outsideLoops_if hs _ outsideLoops_accept)
  | exchange reqLen rspLen =>
    exact outsideLoops_command hs (show execExchange reqLen rspLen s = _ from h)
      (outsideLoops_if hs _ outsideLoops_accept)

/-- A step from an idle block leaves no command in a loop. -/
theorem outsideLoops_step (hs : s.seq = .idle) (h : step s = .next t) : OutsideLoops t := by
  have hseq := (nextMove_seq s).trans hs
  obtain ⟨i, hexec, -⟩ | ⟨-, ht⟩ := step_cases h
  · exact outsideLoops_exec hseq hexec
  · exact outsideLoops_idle (ht.trans hseq)

end Admission

/-- Settles O60: the measure is `stepsLeft`, which a step of the block makes smaller by progress and another
move does not reach; a command starts outside the loops that need a count. -/
theorem commandsTerminate : Obligations.CommandsTerminate := by
  refine ⟨⟨stepsLeft, fun s t hinv hfin hstep f hs => ⟨fun hb => ?_, fun hb => ?_⟩⟩,
    fun s t f hs hstep ht hraw g hg => ?_⟩
  · obtain ⟨i, hi, hexec⟩ := step_blockMoves hs hb
    have hcalm := calm_nextMove s
    have hseq := nextMove_seq s
    have hfin' : FiniteBudgets (nextMove s).2 := by
      unfold FiniteBudgets; rw [hseq, hcalm.h, hcalm.cfg]; exact hfin
    obtain hidle | ⟨g, hg, hc, hn, hlt⟩ :=
      progress_busy (hinv.of_calm hcalm hseq) hfin' (hseq.trans hs) hi (hexec ▸ hstep)
    · exact .inl hidle
    · obtain ⟨-, -, -, hcfg, -⟩ := stickyMarksStay s t hstep
      refine .inr ⟨finiteBudgets_step hinv hfin hs hstep hg hc hn, ?_⟩
      rwa [stepsLeft_busy hs, stepsLeft_busy hg, hcfg, ← hcalm.cfg]
  · obtain ⟨hq, ht⟩ := step_otherMoves hs hb hstep
    refine ⟨ht, finiteBudgets_step hinv hfin hs hstep ht rfl (hfin f hs).1, ?_⟩
    rw [stepsLeft_busy hs, stepsLeft_busy ht, hq.cfg]
  · obtain rfl : f = g := by rw [ht] at hg; cases hg; rfl
    refine ⟨fun hl => ?_, hraw⟩
    rw [outsideLoops_step hs hstep f ht] at hl
    cases hl

end Sys2Proof.Machine
end

section
/-!
Words written out (95_test_vectors.md): a message's written-out words decode because they are its encoding,
and a word 0 is refused because, without the operand bits, it is no row's pattern.
-/

namespace Sys2Proof.Machine

open Sys2Proof

/-- The words a message is encoded to are read back as the message, with nothing behind it. -/
theorem decode_eq_of_encode_eq {p : Config.Params} (hc : p.codes.Ok) {i : Instr} {ws : List Word}
    (hg : i.group ≠ .command) (hwf : i.wellFormed p = true) (henc : encode p.codes i = ws) :
    decode p.codes ws = .ok (i, []) := by
  have hdec := decodeInvertsEncode p i [] hc hg hwf
  rwa [List.append_nil, henc] at hdec

/-- A word 0 that, outside the operands, is no row's pattern matches no row (R126). -/
theorem decode_eq_unknownWord0 {c : Config.Codes} (hc : c.Ok) {w : Word} (ws : List Word)
    (hw : w &&& keyMask c ∉ (tableRows c).map TableRow.pattern) :
    decode c (w :: ws) = .error (.unknownWord0 w) := by
  have hnone : findRow c w = none := by
    refine Option.eq_none_iff_forall_ne_some.2 fun row hrow => hw ?_
    obtain ⟨r, hr, hmatch, -⟩ := matches_of_findRow hrow
    rw [← pattern_eq_of_matches hc hr hmatch]
    exact List.mem_map_of_mem hr
  simp [decode, hnone]

/-- Settles O3: the four lists are the encodings of their messages, and the last word has no row's pattern. -/
theorem writtenWordsDecode : Obligations.WrittenWordsDecode := by
  have hdecode {i : Instr} {ws : List Word} :=
    decode_eq_of_encode_eq (i := i) (ws := ws) Config.defaults_ok.codes
  exact ⟨hdecode (by decide) rfl rfl, hdecode (by decide) rfl rfl, hdecode (by decide) rfl rfl,
    hdecode (by decide) rfl rfl, decode_eq_unknownWord0 Config.defaultCodes_ok [] (by decide)⟩

end Sys2Proof.Machine
end
